-- ==== Sys2Proof/Word.lean ====
section
/-! DEFINITION. The word types of ZASM: the 64-bit register and data-path word, the 32-bit instruction word and
compare-register word, and the byte of data memory (R10, R16, R23 of spec/10_state.md; R50 of spec/30_encoding.md). -/

namespace Sys2Proof

/-- A general register, an address in instruction space, the program counter: `XLEN = 64` bits (R5, R10, R14). -/
abbrev Word := BitVec 64

/-- An instruction word, base or extension (`ILEN = 32`: R5, R50), and the compare register (R16). -/
abbrev Word32 := BitVec 32

/-- A byte of data memory (R23) or of the program image on the wire (R30). -/
abbrev Byte := BitVec 8

end Sys2Proof
end

