-- ==== Sys2Proof/Config.lean ====
section
/-! DEFINITION. What is fixed for a run: the implementation parameters of R5 (spec/00_scope.md) that are quantities or
choices, and the free values: what the spec calls unspecified and gives no number for (R255 of spec/47_helpers.md).
Log entries 4, 6, 7, 13. -/

namespace Sys2Proof

/-- `EXT_SCHEME`: how a base word tells the number of its extension words. `rs2_count` is the only scheme the spec
defines (R5, R58). -/
inductive ExtScheme where
  | rs2Count
deriving DecidableEq, Repr

/-- `JR_BASE`: whether a `JR` displacement counts from the address of the `JR` base word (`this`) or from the address
after the `JR` instruction (`next`): R5, R241. -/
inductive JrBase where
  | thisInstr
  | nextInstr
deriving DecidableEq, Repr

/-- The parameters of R5, with the spec's defaults. `PROG` and `MEM_INIT` are what the host loads
(`Sys2Proof.Machine.State.start`); the program is then held in `State.prog`. -/
structure Config where
  /-- `MEM_SIZE`: the valid data addresses are `0 .. MEM_SIZE-1`. -/
  memSize : Nat := 65536
  /-- `PROG_BASE`: the byte address of the first word of the program image in instruction space. -/
  progBase : Word := 0#64
  /-- `ENTRY`: the program counter at reset. -/
  entry : Word := progBase
  /-- `CALL_DEPTH`: the capacity of the return stack in entries; `none` is infinity. -/
  callDepth : Option Nat := some 1024
  /-- `EXT_SCHEME`. -/
  extScheme : ExtScheme := .rs2Count
  /-- `JR_BASE`. -/
  jrBase : JrBase := .thisInstr
deriving DecidableEq, Repr

/-- `XLEN`, fixed at 64 by the source (R5). -/
def Config.xlen : Nat := 64

/-- `ILEN`, fixed at 32 by the source (R5). -/
def Config.ilen : Nat := 32

/-- `NREG`, fixed at 5 by the source (R5). -/
def Config.nreg : Nat := 5

/-- A 64-bit value the spec does not fix (`unspecified_64` of R7, R253, R254), drawn at a count of the model's tick.
No body: nothing can be proved of it. -/
opaque Config.freeReg : Nat → Word

/-- A 32-bit value the spec does not fix (`unspecified_32`: `CMP` after a macro-op, R255). -/
opaque Config.freeCmp : Nat → Word32

/-- A byte of data memory the spec does not fix, for a tick and an address (the in-bounds destination bytes of a macro-op
that raises `MemoryBounds`, R255). -/
opaque Config.freeByte : Nat → Nat → Byte

end Sys2Proof
end

