-- ==== Sys2Proof/Syntax.lean ====
section
/-! DEFINITION. The abstract syntax of ZASM: registers (R10), condition codes (R76), formats (R53), the 85 opcodes (R70),
the fields of a base word (R51), the reasons for which the decoder rejects (R64, R302), and the instruction type: one
constructor per row of spec/opcode_table.json (the length variants of `CALL`, `JR`, `CP` and `LD` are rows of their own).
Register and condition operands are enumerations, so every term of `Instr` is an instruction the encoding can hold. -/

namespace Sys2Proof

/-- The five general registers of R10, indices 0 to 4. -/
inductive Reg where
  | hl | de | a | bc | ix
deriving DecidableEq, Repr

/-- The condition of a `JR`, codes 0 to 10 (R76); the ten after `al` also name the compare/set instructions (R170). -/
inductive Cond where
  | al | eq | ne | lts | les | gts | ges | ltu | leu | gtu | geu
deriving DecidableEq, Repr

/-- The formats of R53, `z` being the spec's own for `RET` and `DROP` (R56) and `rrrFixed` the `RRR` with fixed registers of
`LDIR` and `FILL` (R57). -/
inductive Format where
  | rrr | rri12 | r | mem | store | j | imm | z | rrrFixed
deriving DecidableEq, Repr

/-- The source's four base addressing modes (R63). -/
inductive AddressingMode where
  /-- `REG`: arithmetic on registers. -/
  | reg
  /-- `REG_IMM12`: arithmetic with a 12-bit immediate. -/
  | regImm12
  /-- `MEM_BASE_IMM12`: load or store at base plus `IMM12` (R38). -/
  | memBaseImm12
  /-- `PC_REL`: a displacement of 12 or 32 bits from the program counter. -/
  | pcRel
deriving DecidableEq, Repr

/-- The families of the opcode map, told by the high nibble of the opcode (R71). -/
inductive Family where
  | control | arithLogic | shiftCount | compareSet | load | store | macroOp
deriving DecidableEq, Repr

/-- The 85 opcodes of R70, in the order of their values. -/
inductive Opcode where
  | call | ret | jr | cp | drop | inc | dec | add | sub | mul | divs | divu | rems | remu | and | or | xor
  | add64 | sub64 | mul64 | divs64 | divu64 | rems64 | remu64 | and64 | or64 | xor64 | sla | sra | srl | rol
  | ror | clz | ctz | popc | sla64 | sra64 | srl64 | rol64 | ror64 | clz64 | ctz64 | popc64 | eq | ne | lts
  | les | gts | ges | ltu | leu | gtu | geu | eq64 | ne64 | lts64 | les64 | gts64 | ges64 | ltu64 | leu64
  | gtu64 | geu64 | ld | ld8u | ld8s | ld16u | ld16s | ld32 | ld64 | ld8u64 | ld8s64 | ld16u64 | ld16s64
  | ld32u64 | ld32s64 | st8 | st8_64 | st16 | st16_64 | st32 | st32_64 | st64 | ldir | fill
deriving DecidableEq, Repr

/-- The five fields of a base word (R51). -/
structure Fields where
  /-- `OPCODE`, bits 31:24. -/
  op : BitVec 8
  /-- `RD`, bits 23:20. -/
  rd : BitVec 4
  /-- `RS1`, bits 19:16: a register index; in format `J` the condition code. -/
  rs1 : BitVec 4
  /-- `RS2`, bits 15:12: a register index; in formats `IMM` and `J` the extension-word count `XW` (R58). -/
  rs2 : BitVec 4
  /-- `IMM12`, bits 11:0. -/
  imm : BitVec 12
deriving DecidableEq, Repr

/-- Why the decoder rejects a word sequence, one name per check of R64 (the list of R302). -/
inductive Reject where
  /-- There is no base word at all (no instruction to decode). -/
  | noBaseWord
  /-- Step 1: `OPCODE` is not one of the 85 of R70 (R72 to R74). -/
  | reservedOpcode
  /-- Step 3: a field the format does not use is not zero (R53). -/
  | unusedFieldNotZero
  /-- Step 4: a register-index field holds 5 to 15 (R65). -/
  | reservedRegister
  /-- Step 5: a `JR` condition code above 10 (R76). -/
  | reservedCondition
  /-- Step 5: `CALL` with `RD` not zero (R244). -/
  | callRdNotZero
  /-- Step 5: `LDIR` or `FILL` with other than its fixed register fields (R57). -/
  | notFixedRegisters
  /-- Step 6: `XW` is not allowed for the opcode (R58). -/
  | extCountNotAllowed
  /-- Step 6: `XW` is not 0 and `IMM12` is not 0 (R58). -/
  | headerImmNotZero
  /-- Step 6: an extension word is missing (R42, R58). -/
  | missingExtWord
deriving DecidableEq, Repr

/-- The instructions, one constructor per row of spec/opcode_table.json. Immediates stand as the field or the extension
words hold them; their extension to 64 bits (R59 to R61) belongs to the meanings. -/
inductive Instr where
  /-- `CALL` (R244). -/
  | call (imm : BitVec 12)
  /-- `CALL.X32` (R244). -/
  | callX32 (imm : Word32)
  /-- `CALL.X64` (R244). -/
  | callX64 (imm : Word)
  /-- `RET` (R245). -/
  | ret
  /-- `JR` (R240). -/
  | jr (cc : Cond) (imm : BitVec 12)
  /-- `JR.X32` (R242). -/
  | jrX32 (cc : Cond) (imm : Word32)
  /-- `CP` (R192). -/
  | cp (rd : Reg) (imm : BitVec 12)
  /-- `CP.X32` (R192). -/
  | cpX32 (rd : Reg) (imm : Word32)
  /-- `DROP` (R252). -/
  | drop
  /-- `INC` (R157). -/
  | inc (rd : Reg)
  /-- `DEC` (R158). -/
  | dec (rd : Reg)
  /-- `ADD` (R102). -/
  | add (rd : Reg) (rs1 : Reg) (rs2 : Reg)
  /-- `SUB` (R103). -/
  | sub (rd : Reg) (rs1 : Reg) (rs2 : Reg)
  /-- `MUL` (R104). -/
  | mul (rd : Reg) (rs1 : Reg) (rs2 : Reg)
  /-- `DIVS` (R105). -/
  | divs (rd : Reg) (rs1 : Reg) (rs2 : Reg)
  /-- `DIVU` (R106). -/
  | divu (rd : Reg) (rs1 : Reg) (rs2 : Reg)
  /-- `REMS` (R107). -/
  | rems (rd : Reg) (rs1 : Reg) (rs2 : Reg)
  /-- `REMU` (R108). -/
  | remu (rd : Reg) (rs1 : Reg) (rs2 : Reg)
  /-- `AND` (R109). -/
  | and (rd : Reg) (rs1 : Reg) (rs2 : Reg)
  /-- `OR` (R110). -/
  | or (rd : Reg) (rs1 : Reg) (rs2 : Reg)
  /-- `XOR` (R111). -/
  | xor (rd : Reg) (rs1 : Reg) (rs2 : Reg)
  /-- `ADD64` (R112). -/
  | add64 (rd : Reg) (rs1 : Reg) (rs2 : Reg)
  /-- `SUB64` (R113). -/
  | sub64 (rd : Reg) (rs1 : Reg) (rs2 : Reg)
  /-- `MUL64` (R114). -/
  | mul64 (rd : Reg) (rs1 : Reg) (rs2 : Reg)
  /-- `DIVS64` (R115). -/
  | divs64 (rd : Reg) (rs1 : Reg) (rs2 : Reg)
  /-- `DIVU64` (R116). -/
  | divu64 (rd : Reg) (rs1 : Reg) (rs2 : Reg)
  /-- `REMS64` (R117). -/
  | rems64 (rd : Reg) (rs1 : Reg) (rs2 : Reg)
  /-- `REMU64` (R118). -/
  | remu64 (rd : Reg) (rs1 : Reg) (rs2 : Reg)
  /-- `AND64` (R119). -/
  | and64 (rd : Reg) (rs1 : Reg) (rs2 : Reg)
  /-- `OR64` (R120). -/
  | or64 (rd : Reg) (rs1 : Reg) (rs2 : Reg)
  /-- `XOR64` (R121). -/
  | xor64 (rd : Reg) (rs1 : Reg) (rs2 : Reg)
  /-- `SLA` (R132). -/
  | sla (rd : Reg) (rs1 : Reg) (imm : BitVec 12)
  /-- `SRA` (R133). -/
  | sra (rd : Reg) (rs1 : Reg) (imm : BitVec 12)
  /-- `SRL` (R134). -/
  | srl (rd : Reg) (rs1 : Reg) (imm : BitVec 12)
  /-- `ROL` (R135). -/
  | rol (rd : Reg) (rs1 : Reg) (imm : BitVec 12)
  /-- `ROR` (R136). -/
  | ror (rd : Reg) (rs1 : Reg) (imm : BitVec 12)
  /-- `CLZ` (R151). -/
  | clz (rd : Reg)
  /-- `CTZ` (R152). -/
  | ctz (rd : Reg)
  /-- `POPC` (R153). -/
  | popc (rd : Reg)
  /-- `SLA64` (R137). -/
  | sla64 (rd : Reg) (rs1 : Reg) (imm : BitVec 12)
  /-- `SRA64` (R138). -/
  | sra64 (rd : Reg) (rs1 : Reg) (imm : BitVec 12)
  /-- `SRL64` (R139). -/
  | srl64 (rd : Reg) (rs1 : Reg) (imm : BitVec 12)
  /-- `ROL64` (R140). -/
  | rol64 (rd : Reg) (rs1 : Reg) (imm : BitVec 12)
  /-- `ROR64` (R141). -/
  | ror64 (rd : Reg) (rs1 : Reg) (imm : BitVec 12)
  /-- `CLZ64` (R154). -/
  | clz64 (rd : Reg)
  /-- `CTZ64` (R155). -/
  | ctz64 (rd : Reg)
  /-- `POPC64` (R156). -/
  | popc64 (rd : Reg)
  /-- `EQ` (R172). -/
  | eq (rd : Reg)
  /-- `NE` (R173). -/
  | ne (rd : Reg)
  /-- `LTS` (R174). -/
  | lts (rd : Reg)
  /-- `LES` (R175). -/
  | les (rd : Reg)
  /-- `GTS` (R176). -/
  | gts (rd : Reg)
  /-- `GES` (R177). -/
  | ges (rd : Reg)
  /-- `LTU` (R178). -/
  | ltu (rd : Reg)
  /-- `LEU` (R179). -/
  | leu (rd : Reg)
  /-- `GTU` (R180). -/
  | gtu (rd : Reg)
  /-- `GEU` (R181). -/
  | geu (rd : Reg)
  /-- `EQ64` (R182). -/
  | eq64 (rd : Reg)
  /-- `NE64` (R183). -/
  | ne64 (rd : Reg)
  /-- `LTS64` (R184). -/
  | lts64 (rd : Reg)
  /-- `LES64` (R185). -/
  | les64 (rd : Reg)
  /-- `GTS64` (R186). -/
  | gts64 (rd : Reg)
  /-- `GES64` (R187). -/
  | ges64 (rd : Reg)
  /-- `LTU64` (R188). -/
  | ltu64 (rd : Reg)
  /-- `LEU64` (R189). -/
  | leu64 (rd : Reg)
  /-- `GTU64` (R190). -/
  | gtu64 (rd : Reg)
  /-- `GEU64` (R191). -/
  | geu64 (rd : Reg)
  /-- `LD` (R251). -/
  | ld (rd : Reg) (imm : BitVec 12)
  /-- `LD.X32` (R251). -/
  | ldX32 (rd : Reg) (imm : Word32)
  /-- `LD.X64` (R251). -/
  | ldX64 (rd : Reg) (imm : Word)
  /-- `LD8U` (R202). -/
  | ld8u (rd : Reg) (rs1 : Reg) (imm : BitVec 12)
  /-- `LD8S` (R203). -/
  | ld8s (rd : Reg) (rs1 : Reg) (imm : BitVec 12)
  /-- `LD16U` (R204). -/
  | ld16u (rd : Reg) (rs1 : Reg) (imm : BitVec 12)
  /-- `LD16S` (R205). -/
  | ld16s (rd : Reg) (rs1 : Reg) (imm : BitVec 12)
  /-- `LD32` (R206). -/
  | ld32 (rd : Reg) (rs1 : Reg) (imm : BitVec 12)
  /-- `LD64` (R207). -/
  | ld64 (rd : Reg) (rs1 : Reg) (imm : BitVec 12)
  /-- `LD8U64` (R208). -/
  | ld8u64 (rd : Reg) (rs1 : Reg) (imm : BitVec 12)
  /-- `LD8S64` (R209). -/
  | ld8s64 (rd : Reg) (rs1 : Reg) (imm : BitVec 12)
  /-- `LD16U64` (R210). -/
  | ld16u64 (rd : Reg) (rs1 : Reg) (imm : BitVec 12)
  /-- `LD16S64` (R211). -/
  | ld16s64 (rd : Reg) (rs1 : Reg) (imm : BitVec 12)
  /-- `LD32U64` (R212). -/
  | ld32u64 (rd : Reg) (rs1 : Reg) (imm : BitVec 12)
  /-- `LD32S64` (R213). -/
  | ld32s64 (rd : Reg) (rs1 : Reg) (imm : BitVec 12)
  /-- `ST8` (R222). -/
  | st8 (rs1 : Reg) (rs2 : Reg) (imm : BitVec 12)
  /-- `ST8_64` (R223). -/
  | st8_64 (rs1 : Reg) (rs2 : Reg) (imm : BitVec 12)
  /-- `ST16` (R224). -/
  | st16 (rs1 : Reg) (rs2 : Reg) (imm : BitVec 12)
  /-- `ST16_64` (R225). -/
  | st16_64 (rs1 : Reg) (rs2 : Reg) (imm : BitVec 12)
  /-- `ST32` (R226). -/
  | st32 (rs1 : Reg) (rs2 : Reg) (imm : BitVec 12)
  /-- `ST32_64` (R227). -/
  | st32_64 (rs1 : Reg) (rs2 : Reg) (imm : BitVec 12)
  /-- `ST64` (R228). -/
  | st64 (rs1 : Reg) (rs2 : Reg) (imm : BitVec 12)
  /-- `LDIR` (R254). -/
  | ldir
  /-- `FILL` (R253). -/
  | fill
deriving DecidableEq, Repr

end Sys2Proof
end

