-- ==== Sys2Proof/Machine/State.lean ====
section
/-! DEFINITION. The architectural state of ZASM (spec/10_state.md), its state after reset (spec/70_reset_and_hazards.md), and
the reasons for which a step answers no next state. Log entries 1 to 6, 8, 11, 12, 13. -/

namespace Sys2Proof.Machine

/-- The five general registers of R10, each 64 bits, none hard-wired (R12). -/
structure Regs where
  /-- `x[0]` -/
  hl : Word
  /-- `x[1]` -/
  de : Word
  /-- `x[2]` -/
  a : Word
  /-- `x[3]` -/
  bc : Word
  /-- `x[4]` -/
  ix : Word
deriving DecidableEq, Repr

/-- Data memory as (address, byte) pairs, addresses strictly rising, no pair equal to what an unlisted address reads as
(log entry 3). -/
abbrev Memory := List Host.Cell

/-- The trap causes of R301, each with its `info`. -/
inductive Trap where
  /-- No. 1: the base word was rejected (R302). -/
  | illegalInstruction (w : Word32)
  /-- No. 2: a division or remainder by zero (R303). -/
  | divideByZero
  /-- No. 3: the one signed quotient that does not fit (R304). -/
  | integerOverflow
  /-- No. 4: a data access of `count` bytes at `addr` not wholly inside memory (R305). -/
  | memoryBounds (addr : Int) (count : Nat)
  /-- No. 5: a fetch at a misaligned address or one outside the image (R306). -/
  | fetchFault (addr : Word)
  /-- No. 6: `CALL` with a full return stack (R307). -/
  | callStackOverflow
deriving DecidableEq, Repr

/-- The run status of R20. `trapped cause at` is `Trapped(cause, at, info)`, the `info` standing in the cause. -/
inductive Status where
  | running
  | halted
  | trapped (cause : Trap) (pc : Word)
deriving DecidableEq, Repr

/-- The whole state: the tuple of spec/10_state.md, the program image and the parameters of R5, and one field of the
model's own. -/
structure State where
  /-- `x[0..4]` (R10). -/
  regs : Regs
  /-- `CMP`, the compare register (R16). -/
  cmp : Word32
  /-- `pc`, the byte address of the base word being executed (R14). -/
  pc : Word
  /-- `RS`, the return stack, its top first (R18; log entry 12). -/
  rs : List Word
  /-- `MEM`, data memory (R23). -/
  mem : Memory
  /-- `status` (R20). -/
  status : Status
  /-- `PROG`, the contents of instruction space, word `k` at `PROG_BASE + 4k` (R22; log entry 5). -/
  prog : List Word32
  /-- The other parameters of R5, fixed for a run (R27; log entry 4). -/
  cfg : Config
  /-- The model's own: how many free values have been drawn (R255; log entries 6, 11). -/
  freeTick : Nat
deriving DecidableEq, Repr

/-- The reasons for which `step` stops. Both are raised by `step` alone, at a terminal state, which has no successor (R20);
no instruction's meaning raises one. -/
inductive Fault where
  /-- `step` at a `Halted` state: the run has ended by `RET` on the empty return stack (R345). Safe: there is no next state. -/
  | halted
  /-- `step` at a `Trapped` state: the run has ended by a trap (R300, R345). Safe: there is no next state. -/
  | trapped (cause : Trap)
deriving DecidableEq, Repr

/-- The reasons for which `exec` gives an instruction no meaning. -/
inductive Refusal where
  /-- An arm of `exec` whose instruction has no meaning yet, named by its mnemonic. Safe: nothing is said of it. No arm of
  this model answers it. -/
  | notModelled (mnemonic : String)
deriving DecidableEq, Repr

/-- The answer of a step or of an instruction's meaning. -/
abbrev Result := Host.Outcome State Fault Refusal

/-- The state of R26 after reset, for given parameters, program image, initial memory (`MEM_INIT`), and given contents of
the holders that reset leaves unspecified (R340 to R343; the host's set-up of R346). -/
def State.start (cfg : Config) (prog : List Word32) (memInit : Memory) (regs : Regs) (cmp : Word32) : State :=
  { regs := regs, cmp := cmp, pc := cfg.entry, rs := [], mem := memInit, status := .running, prog := prog, cfg := cfg,
    freeTick := 0 }

/-- The machine right after reset: the default parameters of R5, no program placed (log entry 5), `MEM_INIT` nothing (log
entry 3), and the registers and `CMP`, unspecified by R13 and R17, at 0 (DESIGN CHOICE, unsafe: log entries 1, 2). -/
def State.reset : State :=
  State.start {} [] [] { hl := 0#64, de := 0#64, a := 0#64, bc := 0#64, ix := 0#64 } 0#32

end Sys2Proof.Machine
end

