-- ==== Sys2Proof/Machine/Operands.lean ====
section
/-! DEFINITION. The operand forms: the notation of R6, the width rule (R100), the immediates (R59 to R61), the shift amount
(R131), the integer quotient (R101) and the bit counts (R151 to R156). -/

namespace Sys2Proof.Machine

/-- `lo32(v)` (R6). -/
def lo32 (v : Word) : Word32 := v.extractLsb' 0 32

/-- `zext_64(v)` (R6). -/
def zext64 {n : Nat} (v : BitVec n) : Word := v.setWidth 64

/-- `sext_64(v)` (R6). -/
def sext64 {n : Nat} (v : BitVec n) : Word := v.signExtend 64

/-- `sext_32(v)` (R6). -/
def sext32 {n : Nat} (v : BitVec n) : Word32 := v.signExtend 32

/-- The 64-bit immediate of a one-word instruction, `sext_64(IMM12)` (R59). -/
def imm12 (i : BitVec 12) : Word := sext64 i

/-- The 64-bit immediate of a two-word instruction, `sext_64(Word1)` (R60). -/
def imm32 (i : Word32) : Word := sext64 i

/-- The shift amount `u(IMM12) mod N` (R131). -/
def shiftAmount (width : Nat) (i : BitVec 12) : Nat := i.toNat % width

/-- `tdiv(p, q)`: the quotient truncated toward zero (R101). -/
def tdiv (p q : Int) : Int := p.tdiv q

/-- How many of the bits `n-1, n-2, ..` of `v`, from the top down, are zero before the first one bit. -/
def leadingZeros {w : Nat} (v : BitVec w) : Nat → Nat
  | 0 => 0
  | n + 1 => if v.getLsbD n then 0 else leadingZeros v n + 1

/-- How many of the `n` bits from bit `at` up are zero before the first one bit. -/
def trailingZeros {w : Nat} (v : BitVec w) (start : Nat) : Nat → Nat
  | 0 => 0
  | n + 1 => if v.getLsbD start then 0 else trailingZeros v (start + 1) n + 1

/-- How many of the bits `0 .. n-1` of `v` are one. -/
def onesBelow {w : Nat} (v : BitVec w) : Nat → Nat
  | 0 => 0
  | n + 1 => onesBelow v n + (if v.getLsbD n then 1 else 0)

/-- The count of leading zero bits, the width for 0 (R151, R154). -/
def clz {w : Nat} (v : BitVec w) : Nat := leadingZeros v w

/-- The count of trailing zero bits, the width for 0 (R152, R155). -/
def ctz {w : Nat} (v : BitVec w) : Nat := trailingZeros v 0 w

/-- The number of one bits (R153, R156). -/
def popCount {w : Nat} (v : BitVec w) : Nat := onesBelow v w

/-- Shift left, zeros enter, bits out of the top are lost (R132, R137). -/
def shiftLeft {w : Nat} (v : BitVec w) (n : Nat) : BitVec w := v <<< n

/-- Arithmetic shift right, the sign bit is copied in (R133, R138). -/
def shiftRightArith {w : Nat} (v : BitVec w) (n : Nat) : BitVec w := v.sshiftRight n

/-- Logical shift right, zeros enter (R134, R139). -/
def shiftRightLogic {w : Nat} (v : BitVec w) (n : Nat) : BitVec w := v >>> n

/-- Rotate left by `n`: `a[N-1-n:0] ++ a[N-1:N-n]`, `a` itself when `n = 0` (R135, R140). -/
def rotLeft {w : Nat} (v : BitVec w) (n : Nat) : BitVec w := if n = 0 then v else (v <<< n) ||| (v >>> (w - n))

/-- Rotate right by `n`: `a[n-1:0] ++ a[N-1:n]`, `a` itself when `n = 0` (R136, R141). -/
def rotRight {w : Nat} (v : BitVec w) (n : Nat) : BitVec w := if n = 0 then v else (v <<< (w - n)) ||| (v >>> n)

/-- Signed division: the divisor is tested first, then the one quotient that does not fit (R101, R105, R115). -/
def divSigned {w : Nat} (a b : BitVec w) : Except Trap (BitVec w) :=
  if b = 0#w then .error .divideByZero
  else if a.toInt = -(2 ^ (w - 1) : Int) ∧ b.toInt = -1 then .error .integerOverflow
  else .ok (BitVec.ofInt w (tdiv a.toInt b.toInt))

/-- Unsigned division (R101, R106, R116). -/
def divUnsigned {w : Nat} (a b : BitVec w) : Except Trap (BitVec w) :=
  if b = 0#w then .error .divideByZero else .ok (BitVec.ofNat w (a.toNat / b.toNat))

/-- Signed remainder, of the sign of the dividend; no overflow case (R101, R107, R117). -/
def remSigned {w : Nat} (a b : BitVec w) : Except Trap (BitVec w) :=
  if b = 0#w then .error .divideByZero
  else .ok (BitVec.ofInt w (a.toInt - b.toInt * tdiv a.toInt b.toInt))

/-- Unsigned remainder (R101, R108, R118). -/
def remUnsigned {w : Nat} (a b : BitVec w) : Except Trap (BitVec w) :=
  if b = 0#w then .error .divideByZero else .ok (BitVec.ofNat w (a.toNat % b.toNat))

end Sys2Proof.Machine
end

