-- ==== Sys2Proof/Machine/Flags.lean ====
section
/-! DEFINITION. ZASM has no carry, overflow, zero or sign flag (R16); what it has is one compare register, written by `CP`
and tested by `JR`, and the conditions, comparisons with zero (R170, R192). -/

namespace Sys2Proof.Machine

/-- `cond(cc, v)`: the comparison of `v` with zero that the name of the condition spells, `S` conditions reading `v` as
signed, `U` conditions as unsigned (R170). -/
def condHolds {w : Nat} (cc : Cond) (v : BitVec w) : Bool :=
  match cc with
  | .al => true
  | .eq => decide (v.toNat = 0)
  | .ne => decide (v.toNat ≠ 0)
  | .lts => decide (v.toInt < 0)
  | .les => decide (v.toInt ≤ 0)
  | .gts => decide (v.toInt > 0)
  | .ges => decide (v.toInt ≥ 0)
  | .ltu => decide (v.toNat < 0)
  | .leu => decide (v.toNat ≤ 0)
  | .gtu => decide (v.toNat > 0)
  | .geu => decide (v.toNat ≥ 0)

/-- The truth value a compare/set instruction writes: the 64-bit value 1 or 0 (R171). -/
def truth (b : Bool) : Word := if b then 1#64 else 0#64

/-- What `CP` writes: the 32-bit wrapped difference of the low halves of the register and the immediate (R192). -/
def compareDiff (x imm : Word) : Word32 := lo32 x - lo32 imm

end Sys2Proof.Machine
end

