-- ==== Sys2Proof/Machine/Ops.lean ====
section
/-! DEFINITION. The named operations over registers, data memory, the return stack and the status: register access (R7, R10),
data memory (R23, R31, R36 to R38), the advance of the program counter (R15), taking a trap (R300, R310), the return stack
(R18, R244, R245), the unspecified values of the macro-ops (R255). There is no return from a trap (R311). -/

namespace Sys2Proof.Machine

/-! ### Registers -/

/-- `x[i]` in a register file (R7, R10). -/
def Regs.get (x : Regs) : Reg → Word
  | .hl => x.hl | .de => x.de | .a => x.a | .bc => x.bc | .ix => x.ix

/-- `x[i] <- v` in a register file (R7, R12: no register is hard-wired). -/
def Regs.set (x : Regs) : Reg → Word → Regs
  | .hl, v => { x with hl := v }
  | .de, v => { x with de := v }
  | .a, v => { x with a := v }
  | .bc, v => { x with bc := v }
  | .ix, v => { x with ix := v }

/-- `x[i]` (R7). -/
def State.reg (s : State) (r : Reg) : Word := s.regs.get r

/-- `x[i] <- v` (R7). -/
def State.setReg (s : State) (r : Reg) (v : Word) : State := { s with regs := s.regs.set r v }

/-- `lo32(x[i])`, the operand of a 32-bit mnemonic (R100). -/
def State.reg32 (s : State) (r : Reg) : Word32 := lo32 (s.reg r)

/-- `CMP <- v` (R7). -/
def State.setCmp (s : State) (v : Word32) : State := { s with cmp := v }

/-! ### Program counter -/

/-- The address of the instruction `len` words long that ends before it: `trunc_64(u(pc) + 4*len)` (R15). -/
def State.nextPc (s : State) (len : Nat) : Word := BitVec.ofNat 64 (s.pc.toNat + 4 * len)

/-- `pc <- target` (R7). -/
def State.setPc (s : State) (target : Word) : State := { s with pc := target }

/-- The end of an instruction of `len` words that does not transfer control (R15). -/
def State.advance (s : State) (len : Nat) : State := s.setPc (s.nextPc len)

/-- The target of a taken `JR` of `len` words: `trunc_64(u(base) + 4*disp)`, the base as `JR_BASE` says (R240, R241). -/
def State.jrTarget (s : State) (len : Nat) (disp : Int) : Word :=
  match s.cfg.jrBase with
  | .thisInstr => BitVec.ofInt 64 (s.pc.toNat + 4 * disp)
  | .nextInstr => BitVec.ofInt 64 (s.pc.toNat + 4 * len + 4 * disp)

/-! ### Traps and the end of a run -/

/-- The number of a cause (R301); no register ever holds it. -/
def Trap.number : Trap → Nat
  | .illegalInstruction _ => 1
  | .divideByZero => 2
  | .integerOverflow => 3
  | .memoryBounds _ _ => 4
  | .fetchFault _ => 5
  | .callStackOverflow => 6

/-- Taking a trap: `status <- Trapped(cause, pc, info)`; nothing else changes (R300, R310). -/
def State.raise (s : State) (t : Trap) : State := { s with status := .trapped t s.pc }

/-- `halt`: `status <- Halted`; nothing else changes (R20, R245). -/
def State.halt (s : State) : State := { s with status := .halted }

/-! ### Data memory -/

/-- What an unlisted address reads as (DESIGN CHOICE, log entry 3: the spec leaves a byte nothing has written unspecified). -/
def Memory.unlisted : Byte := 0#8

/-- The byte at an address. -/
def Memory.read : Memory → Nat → Byte
  | [], _ => Memory.unlisted
  | c :: m, x => if c.1 = x then c.2 else Memory.read m x

/-- A pair put before the first pair of a higher address. -/
def Memory.insert (x : Nat) (b : Byte) : Memory → Memory
  | [] => [(x, b)]
  | c :: m => if x < c.1 then (x, b) :: c :: m else c :: Memory.insert x b m

/-- The pairs of a memory but for those at an address. -/
def Memory.erase (x : Nat) (m : Memory) : Memory := m.filter (fun c => c.1 != x)

/-- `MEM[x] <- b`: the canonical form is kept (writing what an unlisted address reads as removes the pair). -/
def Memory.write (m : Memory) (x : Nat) (b : Byte) : Memory :=
  if b = Memory.unlisted then Memory.erase x m else Memory.insert x b (Memory.erase x m)

/-- The `n` bytes from an address up. -/
def Memory.readBytes (m : Memory) (x n : Nat) : List Byte := (List.range n).map (fun k => Memory.read m (x + k))

/-- Bytes stored from an address up, lowest first. -/
def Memory.writeBytes (m : Memory) (x : Nat) : List Byte → Memory
  | [] => m
  | b :: bs => Memory.writeBytes (Memory.write m x b) (x + 1) bs

/-- The copy loop of `LDIR`: byte by byte in ascending order, each read seeing the earlier writes (R254, R349). -/
def Memory.copyUp (m : Memory) (src dst : Nat) : Nat → Memory
  | 0 => m
  | n + 1 => Memory.copyUp (Memory.write m dst (Memory.read m src)) (src + 1) (dst + 1) n

/-- Data memory replaced. -/
def State.setMem (s : State) (m : Memory) : State := { s with mem := m }

/-- The canonical form: addresses strictly rising, no pair equal to what an unlisted address reads as. -/
def Memory.wf (m : Memory) : Bool :=
  decide (m.Pairwise (fun c d => c.1 < d.1)) && m.all (fun c => c.2 != Memory.unlisted)

/-- Every listed address is one of data memory, `0 .. MEM_SIZE-1` (R23). -/
def Memory.within (size : Nat) (m : Memory) : Bool := m.all (fun c => decide (c.1 < size))

/-- The bytes of the low `8n` bits of a value: byte `k` holds bits `8k+7 : 8k` (R31). -/
def leBytes {w : Nat} (n : Nat) (v : BitVec w) : List Byte := (List.range n).map (fun k => v.extractLsb' (8 * k) 8)

/-- The number whose little-endian bytes these are (R31). -/
def ofLeBytes : List Byte → Nat
  | [] => 0
  | b :: bs => b.toNat + 256 * ofLeBytes bs

/-- The bounds test of R36 and R37: no byte of `addr .. addr+n-1` is outside `0 .. MEM_SIZE-1`. -/
def State.inBounds (s : State) (addr : Int) (n : Nat) : Bool := decide (0 ≤ addr ∧ addr + n ≤ s.cfg.memSize)

/-- `MemRead(addr, n)` (R36). -/
def State.memRead (s : State) (addr : Int) (n : Nat) : Except Trap (BitVec (8 * n)) :=
  if s.inBounds addr n then .ok (BitVec.ofNat (8 * n) (ofLeBytes (Memory.readBytes s.mem addr.toNat n)))
  else .error (.memoryBounds addr n)

/-- `MemWrite(addr, n, v)` (R37): the bounds test comes first. -/
def State.memWrite (s : State) (addr : Int) (n : Nat) (v : BitVec (8 * n)) : Except Trap State :=
  if s.inBounds addr n then .ok (s.setMem (Memory.writeBytes s.mem addr.toNat (leBytes n v)))
  else .error (.memoryBounds addr n)

/-- The effective address of a load or store, `u(x[RS1]) + s(IMM12)`, an integer that does not wrap (R38). -/
def State.effectiveAddress (s : State) (rs1 : Reg) (imm : BitVec 12) : Int := (s.reg rs1).toNat + imm.toInt

/-! ### The return stack -/

/-- `depth(RS) = CALL_DEPTH`; never for an infinite capacity (R18, R244, R307). -/
def State.callStackFull (s : State) : Bool :=
  match s.cfg.callDepth with
  | none => false
  | some d => decide (s.rs.length = d)

/-- The return stack replaced. -/
def State.setRs (s : State) (rs : List Word) : State := { s with rs := rs }

/-- `push(RS, a)` (R7). -/
def State.push (s : State) (ret : Word) : State := s.setRs (ret :: s.rs)

/-! ### Unspecified values (R255) -/

/-- `x[i] <- unspecified_64`: a free value at the tick, which advances. -/
def State.freeReg (s : State) (r : Reg) : State :=
  { s with regs := s.regs.set r (Config.freeReg s.freeTick), freeTick := s.freeTick + 1 }

/-- `CMP <- unspecified_32`. -/
def State.freeCmp (s : State) : State := { s with cmp := Config.freeCmp s.freeTick, freeTick := s.freeTick + 1 }

/-- The `n` bytes from an address up become unspecified. -/
def State.freeBytes (s : State) (x n : Nat) : State :=
  { s with mem := Memory.writeBytes s.mem x ((List.range n).map (fun k => Config.freeByte s.freeTick (x + k)))
           freeTick := s.freeTick + 1 }

/-- How many bytes of `d .. d+n-1` lie in data memory. -/
def State.inBoundsCount (s : State) (d n : Nat) : Nat := min (d + n) s.cfg.memSize - d

/-- A macro-op that raises `MemoryBounds`: the in-bounds bytes of its destination range and its scratch registers become
unspecified, `CMP` and everything else stay, and the trap is taken (R255, R309; log entry 7). -/
def State.macroTrap (s : State) (dst n : Nat) (scratch : List Reg) (t : Trap) : State :=
  (scratch.foldl State.freeReg (s.freeBytes dst (s.inBoundsCount dst n))).raise t

/-- The end of a macro-op that completes: its scratch registers and `CMP` become unspecified and the program counter
advances by one word (R253 to R255). -/
def State.macroEnd (s : State) (scratch : List Reg) : State := ((scratch.foldl State.freeReg s).freeCmp).advance 1

/-! ### The ends of an instruction -/

/-- An instruction of `len` words that writes one register and goes on to the next instruction. -/
def writeAndAdvance (rd : Reg) (v : Word) (len : Nat) (s : State) : Result := .next ((s.setReg rd v).advance len)

/-- A one-word instruction whose result may be a trap: then nothing else happens (R300, R309). -/
def writeOrTrap (rd : Reg) (r : Except Trap Word) (s : State) : Result :=
  match r with
  | .ok v => writeAndAdvance rd v 1 s
  | .error t => .next (s.raise t)

/-- A load of `n` bytes from `[RS1 + imm12]`, the value extended by `ext` (R200, R201). -/
def loadReg (n : Nat) (ext : BitVec (8 * n) → Word) (rd rs1 : Reg) (imm : BitVec 12) (s : State) : Result :=
  writeOrTrap rd ((s.memRead (s.effectiveAddress rs1 imm) n).map ext) s

/-- A store of the low `8n` bits of `x[RS2]` to `[RS1 + imm12]` (R220, R221). -/
def storeReg (n : Nat) (rs1 rs2 : Reg) (imm : BitVec 12) (s : State) : Result :=
  match s.memWrite (s.effectiveAddress rs1 imm) n ((s.reg rs2).setWidth (8 * n)) with
  | .ok s' => .next (s'.advance 1)
  | .error t => .next (s.raise t)

/-- A compare/set of a value already read: 1 or 0 into the register (R171). -/
def setOnCond {w : Nat} (cc : Cond) (v : BitVec w) (rd : Reg) (s : State) : Result :=
  writeAndAdvance rd (truth (condHolds cc v)) 1 s

/-- `CP` of `len` words with a 64-bit immediate (R192). -/
def compareWith (rd : Reg) (imm : Word) (len : Nat) (s : State) : Result :=
  .next ((s.setCmp (compareDiff (s.reg rd) imm)).advance len)

/-- `JR` of `len` words with a displacement in words; `CMP` is read only when the condition is not `AL` (R240). -/
def jumpRelative (cc : Cond) (disp : Int) (len : Nat) (s : State) : Result :=
  if cc = .al ∨ condHolds cc s.cmp = true then .next (s.setPc (s.jrTarget len disp)) else .next (s.advance len)

/-- `CALL` of `len` words to an absolute address (R244). -/
def callAbsolute (target : Word) (len : Nat) (s : State) : Result :=
  if s.callStackFull then .next (s.raise .callStackOverflow)
  else .next ((s.push (s.nextPc len)).setPc target)

end Sys2Proof.Machine
end

