-- ==== Sys2Proof/Machine/Arith.lean ====
section
/-! DEFINITION. Core arithmetic and logical instructions, format `RRR` (spec/40_arith_logic.md, R99 to R122): `RS1` is the left
operand, `RS2` the right; both are read before `RD` is written (R349). -/

namespace Sys2Proof.Machine

/-- `ADD`: 32-bit addition, the sum wraps (R102). -/
def execAdd (rd rs1 rs2 : Reg) (s : State) : Result :=
  writeAndAdvance rd (zext64 (s.reg32 rs1 + s.reg32 rs2)) 1 s

/-- `SUB`: 32-bit subtraction `rs1 - rs2`, the difference wraps (R103). -/
def execSub (rd rs1 rs2 : Reg) (s : State) : Result :=
  writeAndAdvance rd (zext64 (s.reg32 rs1 - s.reg32 rs2)) 1 s

/-- `MUL`: 32-bit multiplication, the low half of the product (R104). -/
def execMul (rd rs1 rs2 : Reg) (s : State) : Result :=
  writeAndAdvance rd (zext64 (s.reg32 rs1 * s.reg32 rs2)) 1 s

/-- `DIVS`: 32-bit signed division, truncated toward zero (R105). -/
def execDivs (rd rs1 rs2 : Reg) (s : State) : Result :=
  writeOrTrap rd ((divSigned (s.reg32 rs1) (s.reg32 rs2)).map zext64) s

/-- `DIVU`: 32-bit unsigned division (R106). -/
def execDivu (rd rs1 rs2 : Reg) (s : State) : Result :=
  writeOrTrap rd ((divUnsigned (s.reg32 rs1) (s.reg32 rs2)).map zext64) s

/-- `REMS`: 32-bit signed remainder, of the sign of the dividend (R107). -/
def execRems (rd rs1 rs2 : Reg) (s : State) : Result :=
  writeOrTrap rd ((remSigned (s.reg32 rs1) (s.reg32 rs2)).map zext64) s

/-- `REMU`: 32-bit unsigned remainder (R108). -/
def execRemu (rd rs1 rs2 : Reg) (s : State) : Result :=
  writeOrTrap rd ((remUnsigned (s.reg32 rs1) (s.reg32 rs2)).map zext64) s

/-- `AND`: 32-bit bitwise AND (R109). -/
def execAnd (rd rs1 rs2 : Reg) (s : State) : Result :=
  writeAndAdvance rd (zext64 (s.reg32 rs1 &&& s.reg32 rs2)) 1 s

/-- `OR`: 32-bit bitwise OR (R110). -/
def execOr (rd rs1 rs2 : Reg) (s : State) : Result :=
  writeAndAdvance rd (zext64 (s.reg32 rs1 ||| s.reg32 rs2)) 1 s

/-- `XOR`: 32-bit bitwise exclusive OR (R111). -/
def execXor (rd rs1 rs2 : Reg) (s : State) : Result :=
  writeAndAdvance rd (zext64 (s.reg32 rs1 ^^^ s.reg32 rs2)) 1 s

/-- `ADD64`: 64-bit addition, the sum wraps (R112). -/
def execAdd64 (rd rs1 rs2 : Reg) (s : State) : Result :=
  writeAndAdvance rd (s.reg rs1 + s.reg rs2) 1 s

/-- `SUB64`: 64-bit subtraction `rs1 - rs2`, the difference wraps (R113). -/
def execSub64 (rd rs1 rs2 : Reg) (s : State) : Result :=
  writeAndAdvance rd (s.reg rs1 - s.reg rs2) 1 s

/-- `MUL64`: 64-bit multiplication, the low half of the product (R114). -/
def execMul64 (rd rs1 rs2 : Reg) (s : State) : Result :=
  writeAndAdvance rd (s.reg rs1 * s.reg rs2) 1 s

/-- `DIVS64`: 64-bit signed division, truncated toward zero (R115). -/
def execDivs64 (rd rs1 rs2 : Reg) (s : State) : Result :=
  writeOrTrap rd (divSigned (s.reg rs1) (s.reg rs2)) s

/-- `DIVU64`: 64-bit unsigned division (R116). -/
def execDivu64 (rd rs1 rs2 : Reg) (s : State) : Result :=
  writeOrTrap rd (divUnsigned (s.reg rs1) (s.reg rs2)) s

/-- `REMS64`: 64-bit signed remainder, of the sign of the dividend (R117). -/
def execRems64 (rd rs1 rs2 : Reg) (s : State) : Result :=
  writeOrTrap rd (remSigned (s.reg rs1) (s.reg rs2)) s

/-- `REMU64`: 64-bit unsigned remainder (R118). -/
def execRemu64 (rd rs1 rs2 : Reg) (s : State) : Result :=
  writeOrTrap rd (remUnsigned (s.reg rs1) (s.reg rs2)) s

/-- `AND64`: 64-bit bitwise AND (R119). -/
def execAnd64 (rd rs1 rs2 : Reg) (s : State) : Result :=
  writeAndAdvance rd (s.reg rs1 &&& s.reg rs2) 1 s

/-- `OR64`: 64-bit bitwise OR (R120). -/
def execOr64 (rd rs1 rs2 : Reg) (s : State) : Result :=
  writeAndAdvance rd (s.reg rs1 ||| s.reg rs2) 1 s

/-- `XOR64`: 64-bit bitwise exclusive OR (R121). -/
def execXor64 (rd rs1 rs2 : Reg) (s : State) : Result :=
  writeAndAdvance rd (s.reg rs1 ^^^ s.reg rs2) 1 s

end Sys2Proof.Machine
end

