-- ==== Sys2Proof/Machine/BitUnary.lean ====
section
/-! DEFINITION. Bit-count and unary arithmetic instructions, format `R`, in place (spec/42_bit_unary.md, R150 to R158). -/

namespace Sys2Proof.Machine

/-- `CLZ`: 32-bit count of leading zero bits, in place (R151). -/
def execClz (rd : Reg) (s : State) : Result :=
  writeAndAdvance rd (BitVec.ofNat 64 (clz (s.reg32 rd))) 1 s

/-- `CTZ`: 32-bit count of trailing zero bits, in place (R152). -/
def execCtz (rd : Reg) (s : State) : Result :=
  writeAndAdvance rd (BitVec.ofNat 64 (ctz (s.reg32 rd))) 1 s

/-- `POPC`: 32-bit population count, in place (R153). -/
def execPopc (rd : Reg) (s : State) : Result :=
  writeAndAdvance rd (BitVec.ofNat 64 (popCount (s.reg32 rd))) 1 s

/-- `CLZ64`: 64-bit count of leading zero bits, in place (R154). -/
def execClz64 (rd : Reg) (s : State) : Result :=
  writeAndAdvance rd (BitVec.ofNat 64 (clz (s.reg rd))) 1 s

/-- `CTZ64`: 64-bit count of trailing zero bits, in place (R155). -/
def execCtz64 (rd : Reg) (s : State) : Result :=
  writeAndAdvance rd (BitVec.ofNat 64 (ctz (s.reg rd))) 1 s

/-- `POPC64`: 64-bit population count, in place (R156). -/
def execPopc64 (rd : Reg) (s : State) : Result :=
  writeAndAdvance rd (BitVec.ofNat 64 (popCount (s.reg rd))) 1 s

/-- `INC`: 32-bit increment by one, in place; `CMP` is not written (R157). -/
def execInc (rd : Reg) (s : State) : Result :=
  writeAndAdvance rd (zext64 (s.reg32 rd + 1#32)) 1 s

/-- `DEC`: 32-bit decrement by one, in place; `CMP` is not written (R158). -/
def execDec (rd : Reg) (s : State) : Result :=
  writeAndAdvance rd (zext64 (s.reg32 rd - 1#32)) 1 s

end Sys2Proof.Machine
end

