-- ==== Sys2Proof/Machine/CompareSet.lean ====
section
/-! DEFINITION. Compare/set instructions, format `R`, unary tests against zero (spec/43_compare_set.md, R170 to R191; log entry 9),
and `CP` (R192). -/

namespace Sys2Proof.Machine

/-- `EQ`: 1 if `cond(EQ, v)` of the low 32 bits of `x[RD]`, else 0 (R172). -/
def execEq (rd : Reg) (s : State) : Result := setOnCond .eq (s.reg32 rd) rd s

/-- `NE`: 1 if `cond(NE, v)` of the low 32 bits of `x[RD]`, else 0 (R173). -/
def execNe (rd : Reg) (s : State) : Result := setOnCond .ne (s.reg32 rd) rd s

/-- `LTS`: 1 if `cond(LTS, v)` of the low 32 bits of `x[RD]`, else 0 (R174). -/
def execLts (rd : Reg) (s : State) : Result := setOnCond .lts (s.reg32 rd) rd s

/-- `LES`: 1 if `cond(LES, v)` of the low 32 bits of `x[RD]`, else 0 (R175). -/
def execLes (rd : Reg) (s : State) : Result := setOnCond .les (s.reg32 rd) rd s

/-- `GTS`: 1 if `cond(GTS, v)` of the low 32 bits of `x[RD]`, else 0 (R176). -/
def execGts (rd : Reg) (s : State) : Result := setOnCond .gts (s.reg32 rd) rd s

/-- `GES`: 1 if `cond(GES, v)` of the low 32 bits of `x[RD]`, else 0 (R177). -/
def execGes (rd : Reg) (s : State) : Result := setOnCond .ges (s.reg32 rd) rd s

/-- `LTU`: 1 if `cond(LTU, v)` of the low 32 bits of `x[RD]`, else 0 (R178). -/
def execLtu (rd : Reg) (s : State) : Result := setOnCond .ltu (s.reg32 rd) rd s

/-- `LEU`: 1 if `cond(LEU, v)` of the low 32 bits of `x[RD]`, else 0 (R179). -/
def execLeu (rd : Reg) (s : State) : Result := setOnCond .leu (s.reg32 rd) rd s

/-- `GTU`: 1 if `cond(GTU, v)` of the low 32 bits of `x[RD]`, else 0 (R180). -/
def execGtu (rd : Reg) (s : State) : Result := setOnCond .gtu (s.reg32 rd) rd s

/-- `GEU`: 1 if `cond(GEU, v)` of the low 32 bits of `x[RD]`, else 0 (R181). -/
def execGeu (rd : Reg) (s : State) : Result := setOnCond .geu (s.reg32 rd) rd s

/-- `EQ64`: 1 if `cond(EQ, v)` of the 64-bit value of `x[RD]`, else 0 (R182). -/
def execEq64 (rd : Reg) (s : State) : Result := setOnCond .eq (s.reg rd) rd s

/-- `NE64`: 1 if `cond(NE, v)` of the 64-bit value of `x[RD]`, else 0 (R183). -/
def execNe64 (rd : Reg) (s : State) : Result := setOnCond .ne (s.reg rd) rd s

/-- `LTS64`: 1 if `cond(LTS, v)` of the 64-bit value of `x[RD]`, else 0 (R184). -/
def execLts64 (rd : Reg) (s : State) : Result := setOnCond .lts (s.reg rd) rd s

/-- `LES64`: 1 if `cond(LES, v)` of the 64-bit value of `x[RD]`, else 0 (R185). -/
def execLes64 (rd : Reg) (s : State) : Result := setOnCond .les (s.reg rd) rd s

/-- `GTS64`: 1 if `cond(GTS, v)` of the 64-bit value of `x[RD]`, else 0 (R186). -/
def execGts64 (rd : Reg) (s : State) : Result := setOnCond .gts (s.reg rd) rd s

/-- `GES64`: 1 if `cond(GES, v)` of the 64-bit value of `x[RD]`, else 0 (R187). -/
def execGes64 (rd : Reg) (s : State) : Result := setOnCond .ges (s.reg rd) rd s

/-- `LTU64`: 1 if `cond(LTU, v)` of the 64-bit value of `x[RD]`, else 0 (R188). -/
def execLtu64 (rd : Reg) (s : State) : Result := setOnCond .ltu (s.reg rd) rd s

/-- `LEU64`: 1 if `cond(LEU, v)` of the 64-bit value of `x[RD]`, else 0 (R189). -/
def execLeu64 (rd : Reg) (s : State) : Result := setOnCond .leu (s.reg rd) rd s

/-- `GTU64`: 1 if `cond(GTU, v)` of the 64-bit value of `x[RD]`, else 0 (R190). -/
def execGtu64 (rd : Reg) (s : State) : Result := setOnCond .gtu (s.reg rd) rd s

/-- `GEU64`: 1 if `cond(GEU, v)` of the 64-bit value of `x[RD]`, else 0 (R191). -/
def execGeu64 (rd : Reg) (s : State) : Result := setOnCond .geu (s.reg rd) rd s

/-- `CP` with `IMM12`: `CMP` becomes the wrapped 32-bit difference; `x[RD]` is not written (R192). -/
def execCp (rd : Reg) (imm : BitVec 12) (s : State) : Result := compareWith rd (imm12 imm) 1 s

/-- `CP.X32`: `CP` with `IMM32` (R192). -/
def execCpX32 (rd : Reg) (imm : Word32) (s : State) : Result := compareWith rd (imm32 imm) 2 s

end Sys2Proof.Machine
end

