-- ==== Sys2Proof/Machine/Control.lean ====
section
/-! DEFINITION. Control flow: `JR`, `CALL`, `RET` (spec/46_control_flow.md, R240 to R246). -/

namespace Sys2Proof.Machine

/-- `JR` with `IMM12`, a displacement in words (R240). -/
def execJr (cc : Cond) (imm : BitVec 12) (s : State) : Result := jumpRelative cc imm.toInt 1 s

/-- `JR.X32`: `JR` with `IMM32`, still in words (R240, R242). -/
def execJrX32 (cc : Cond) (imm : Word32) (s : State) : Result := jumpRelative cc imm.toInt 2 s

/-- `CALL` with `IMM12`, sign-extended (R244, R59). -/
def execCall (imm : BitVec 12) (s : State) : Result := callAbsolute (imm12 imm) 1 s

/-- `CALL.X32`: `CALL` with `IMM32`, sign-extended (R244, R60). -/
def execCallX32 (imm : Word32) (s : State) : Result := callAbsolute (imm32 imm) 2 s

/-- `CALL.X64`: `CALL` with `IMM64` (R244, R61). -/
def execCallX64 (imm : Word) (s : State) : Result := callAbsolute imm 3 s

/-- `RET`: to the address on top of the return stack, or the halt when it is empty (R245). -/
def execRet (s : State) : Result :=
  match s.rs with
  | [] => .next s.halt
  | ret :: rest => .next ((s.setRs rest).setPc ret)

end Sys2Proof.Machine
end

