-- ==== Sys2Proof/Machine/Helpers.lean ====
section
/-! DEFINITION. `LD`, `DROP`, `FILL`, `LDIR` (spec/47_helpers.md, R250 to R255). -/

namespace Sys2Proof.Machine

/-- `LD` with `IMM12`: all 64 bits of the sign-extended immediate (R251, R59). -/
def execLd (rd : Reg) (imm : BitVec 12) (s : State) : Result := writeAndAdvance rd (imm12 imm) 1 s

/-- `LD.X32`: `LD` with `IMM32`, sign-extended (R251, R60). -/
def execLdX32 (rd : Reg) (imm : Word32) (s : State) : Result := writeAndAdvance rd (imm32 imm) 2 s

/-- `LD.X64`: `LD` with `IMM64` (R251, R61). -/
def execLdX64 (rd : Reg) (imm : Word) (s : State) : Result := writeAndAdvance rd imm 3 s

/-- `DROP`: no effect but the advance of the program counter (R252). -/
def execDrop (s : State) : Result := .next (s.advance 1)

/-- `FILL`: `u(BC)` bytes from `u(HL)` up become the low byte of `A`; the range is tested before any byte is written;
`HL`, `BC` and `CMP` become unspecified (R253, R255). DESIGN CHOICE (log entry 16): the test is `d + n > MEM_SIZE` as R253's
pseudocode writes it, also where `MEM_SIZE` is `2^32` or more and its corner case (3) says that a `BC` with a non-zero upper half
always raises; such a `FILL` completes when its range fits. -/
def execFill (s : State) : Result :=
  let d := (s.reg .hl).toNat
  let n := (s.reg .bc).toNat
  let b := (s.reg .a).extractLsb' 0 8
  if s.cfg.memSize < d + n then .next (s.macroTrap d n [.hl, .bc] (.memoryBounds d n))
  else .next ((s.setMem (Memory.writeBytes s.mem d (List.replicate n b))).macroEnd [.hl, .bc])

/-- `LDIR`: `u(BC)` bytes from `u(HL)` to `u(DE)`, lowest address first; the source range is tested, then the destination
range, before any byte is written; `HL`, `DE`, `BC` and `CMP` become unspecified (R254, R255; log entry 9). -/
def execLdir (s : State) : Result :=
  let src := (s.reg .hl).toNat
  let d := (s.reg .de).toNat
  let n := (s.reg .bc).toNat
  if s.cfg.memSize < src + n then .next (s.macroTrap d n [.hl, .de, .bc] (.memoryBounds src n))
  else if s.cfg.memSize < d + n then .next (s.macroTrap d n [.hl, .de, .bc] (.memoryBounds d n))
  else .next ((s.setMem (Memory.copyUp s.mem src d n)).macroEnd [.hl, .de, .bc])

end Sys2Proof.Machine
end

