-- ==== Sys2Proof/Machine/Load.lean ====
section
/-! DEFINITION. Load instructions, format `MEM` (spec/44_loads.md, R200 to R213). -/

namespace Sys2Proof.Machine

/-- `LD8U`: 1 byte from `[RS1 + imm12]`, zero-extended (R202). -/
def execLd8u (rd rs1 : Reg) (imm : BitVec 12) (s : State) : Result := loadReg 1 zext64 rd rs1 imm s

/-- `LD8S`: 1 byte from `[RS1 + imm12]`, sign-extended to 32 bits, then zero-extended (R203). -/
def execLd8s (rd rs1 : Reg) (imm : BitVec 12) (s : State) : Result := loadReg 1 (fun m => zext64 (sext32 m)) rd rs1 imm s

/-- `LD16U`: 2 bytes from `[RS1 + imm12]`, zero-extended (R204). -/
def execLd16u (rd rs1 : Reg) (imm : BitVec 12) (s : State) : Result := loadReg 2 zext64 rd rs1 imm s

/-- `LD16S`: 2 bytes from `[RS1 + imm12]`, sign-extended to 32 bits, then zero-extended (R205). -/
def execLd16s (rd rs1 : Reg) (imm : BitVec 12) (s : State) : Result := loadReg 2 (fun m => zext64 (sext32 m)) rd rs1 imm s

/-- `LD32`: 4 bytes from `[RS1 + imm12]`, zero-extended (R206). -/
def execLd32 (rd rs1 : Reg) (imm : BitVec 12) (s : State) : Result := loadReg 4 zext64 rd rs1 imm s

/-- `LD64`: 8 bytes from `[RS1 + imm12]`, all 64 bits (R207). -/
def execLd64 (rd rs1 : Reg) (imm : BitVec 12) (s : State) : Result := loadReg 8 (fun m => m) rd rs1 imm s

/-- `LD8U64`: 1 byte from `[RS1 + imm12]`, zero-extended (R208). -/
def execLd8u64 (rd rs1 : Reg) (imm : BitVec 12) (s : State) : Result := loadReg 1 zext64 rd rs1 imm s

/-- `LD8S64`: 1 byte from `[RS1 + imm12]`, sign-extended (R209). -/
def execLd8s64 (rd rs1 : Reg) (imm : BitVec 12) (s : State) : Result := loadReg 1 sext64 rd rs1 imm s

/-- `LD16U64`: 2 bytes from `[RS1 + imm12]`, zero-extended (R210). -/
def execLd16u64 (rd rs1 : Reg) (imm : BitVec 12) (s : State) : Result := loadReg 2 zext64 rd rs1 imm s

/-- `LD16S64`: 2 bytes from `[RS1 + imm12]`, sign-extended (R211). -/
def execLd16s64 (rd rs1 : Reg) (imm : BitVec 12) (s : State) : Result := loadReg 2 sext64 rd rs1 imm s

/-- `LD32U64`: 4 bytes from `[RS1 + imm12]`, zero-extended (R212). -/
def execLd32u64 (rd rs1 : Reg) (imm : BitVec 12) (s : State) : Result := loadReg 4 zext64 rd rs1 imm s

/-- `LD32S64`: 4 bytes from `[RS1 + imm12]`, sign-extended (R213). -/
def execLd32s64 (rd rs1 : Reg) (imm : BitVec 12) (s : State) : Result := loadReg 4 sext64 rd rs1 imm s

end Sys2Proof.Machine
end

