-- ==== Sys2Proof/Machine/Shift.lean ====
section
/-! DEFINITION. Shift and rotate instructions, format `RRI12` (spec/41_shift_rotate.md, R130 to R141): the amount is the immediate,
reduced modulo the width (R131; log entry 9). -/

namespace Sys2Proof.Machine

/-- `SLA`: 32-bit shift left by `u(IMM12) mod 32` (R132). -/
def execSla (rd rs1 : Reg) (imm : BitVec 12) (s : State) : Result :=
  writeAndAdvance rd (zext64 (shiftLeft (s.reg32 rs1) (shiftAmount 32 imm))) 1 s

/-- `SRA`: 32-bit arithmetic shift right by `u(IMM12) mod 32` (R133). -/
def execSra (rd rs1 : Reg) (imm : BitVec 12) (s : State) : Result :=
  writeAndAdvance rd (zext64 (shiftRightArith (s.reg32 rs1) (shiftAmount 32 imm))) 1 s

/-- `SRL`: 32-bit logical shift right by `u(IMM12) mod 32` (R134). -/
def execSrl (rd rs1 : Reg) (imm : BitVec 12) (s : State) : Result :=
  writeAndAdvance rd (zext64 (shiftRightLogic (s.reg32 rs1) (shiftAmount 32 imm))) 1 s

/-- `ROL`: 32-bit rotate left by `u(IMM12) mod 32` (R135). -/
def execRol (rd rs1 : Reg) (imm : BitVec 12) (s : State) : Result :=
  writeAndAdvance rd (zext64 (rotLeft (s.reg32 rs1) (shiftAmount 32 imm))) 1 s

/-- `ROR`: 32-bit rotate right by `u(IMM12) mod 32` (R136). -/
def execRor (rd rs1 : Reg) (imm : BitVec 12) (s : State) : Result :=
  writeAndAdvance rd (zext64 (rotRight (s.reg32 rs1) (shiftAmount 32 imm))) 1 s

/-- `SLA64`: 64-bit shift left by `u(IMM12) mod 64` (R137). -/
def execSla64 (rd rs1 : Reg) (imm : BitVec 12) (s : State) : Result :=
  writeAndAdvance rd (shiftLeft (s.reg rs1) (shiftAmount 64 imm)) 1 s

/-- `SRA64`: 64-bit arithmetic shift right by `u(IMM12) mod 64` (R138). -/
def execSra64 (rd rs1 : Reg) (imm : BitVec 12) (s : State) : Result :=
  writeAndAdvance rd (shiftRightArith (s.reg rs1) (shiftAmount 64 imm)) 1 s

/-- `SRL64`: 64-bit logical shift right by `u(IMM12) mod 64` (R139). -/
def execSrl64 (rd rs1 : Reg) (imm : BitVec 12) (s : State) : Result :=
  writeAndAdvance rd (shiftRightLogic (s.reg rs1) (shiftAmount 64 imm)) 1 s

/-- `ROL64`: 64-bit rotate left by `u(IMM12) mod 64` (R140). -/
def execRol64 (rd rs1 : Reg) (imm : BitVec 12) (s : State) : Result :=
  writeAndAdvance rd (rotLeft (s.reg rs1) (shiftAmount 64 imm)) 1 s

/-- `ROR64`: 64-bit rotate right by `u(IMM12) mod 64` (R141). -/
def execRor64 (rd rs1 : Reg) (imm : BitVec 12) (s : State) : Result :=
  writeAndAdvance rd (rotRight (s.reg rs1) (shiftAmount 64 imm)) 1 s

end Sys2Proof.Machine
end

