-- ==== Sys2Proof/Machine/Store.lean ====
section
/-! DEFINITION. Store instructions, format `STORE` (spec/45_stores.md, R220 to R228). -/

namespace Sys2Proof.Machine

/-- `ST8`: the low 8 bits of `x[RS2]` to the 1 byte at `[RS1 + imm12]` (R222). -/
def execSt8 (rs1 rs2 : Reg) (imm : BitVec 12) (s : State) : Result := storeReg 1 rs1 rs2 imm s

/-- `ST8_64`: the low 8 bits of `x[RS2]` to the 1 byte at `[RS1 + imm12]` (R223). -/
def execSt8_64 (rs1 rs2 : Reg) (imm : BitVec 12) (s : State) : Result := storeReg 1 rs1 rs2 imm s

/-- `ST16`: the low 16 bits of `x[RS2]` to the 2 bytes at `[RS1 + imm12]` (R224). -/
def execSt16 (rs1 rs2 : Reg) (imm : BitVec 12) (s : State) : Result := storeReg 2 rs1 rs2 imm s

/-- `ST16_64`: the low 16 bits of `x[RS2]` to the 2 bytes at `[RS1 + imm12]` (R225). -/
def execSt16_64 (rs1 rs2 : Reg) (imm : BitVec 12) (s : State) : Result := storeReg 2 rs1 rs2 imm s

/-- `ST32`: the low 32 bits of `x[RS2]` to the 4 bytes at `[RS1 + imm12]` (R226). -/
def execSt32 (rs1 rs2 : Reg) (imm : BitVec 12) (s : State) : Result := storeReg 4 rs1 rs2 imm s

/-- `ST32_64`: the low 32 bits of `x[RS2]` to the 4 bytes at `[RS1 + imm12]` (R227). -/
def execSt32_64 (rs1 rs2 : Reg) (imm : BitVec 12) (s : State) : Result := storeReg 4 rs1 rs2 imm s

/-- `ST64`: the low 64 bits of `x[RS2]` to the 8 bytes at `[RS1 + imm12]` (R228). -/
def execSt64 (rs1 rs2 : Reg) (imm : BitVec 12) (s : State) : Result := storeReg 8 rs1 rs2 imm s

end Sys2Proof.Machine
end

