-- ==== Sys2Proof/Machine/Dispatch.lean ====
section
/-! DEFINITION. exec: one arm per constructor of Instr, in the order of spec/opcode_table.json. -/

namespace Sys2Proof.Machine

def exec (i : Instr) (s : State) : Host.Outcome State Fault Refusal :=
  match i with
  | .call imm => Sys2Proof.Machine.execCall imm s
  | .callX32 imm => Sys2Proof.Machine.execCallX32 imm s
  | .callX64 imm => Sys2Proof.Machine.execCallX64 imm s
  | .ret => Sys2Proof.Machine.execRet s
  | .jr cc imm => Sys2Proof.Machine.execJr cc imm s
  | .jrX32 cc imm => Sys2Proof.Machine.execJrX32 cc imm s
  | .cp rd imm => Sys2Proof.Machine.execCp rd imm s
  | .cpX32 rd imm => Sys2Proof.Machine.execCpX32 rd imm s
  | .drop => Sys2Proof.Machine.execDrop s
  | .inc rd => Sys2Proof.Machine.execInc rd s
  | .dec rd => Sys2Proof.Machine.execDec rd s
  | .add rd rs1 rs2 => Sys2Proof.Machine.execAdd rd rs1 rs2 s
  | .sub rd rs1 rs2 => Sys2Proof.Machine.execSub rd rs1 rs2 s
  | .mul rd rs1 rs2 => Sys2Proof.Machine.execMul rd rs1 rs2 s
  | .divs rd rs1 rs2 => Sys2Proof.Machine.execDivs rd rs1 rs2 s
  | .divu rd rs1 rs2 => Sys2Proof.Machine.execDivu rd rs1 rs2 s
  | .rems rd rs1 rs2 => Sys2Proof.Machine.execRems rd rs1 rs2 s
  | .remu rd rs1 rs2 => Sys2Proof.Machine.execRemu rd rs1 rs2 s
  | .and rd rs1 rs2 => Sys2Proof.Machine.execAnd rd rs1 rs2 s
  | .or rd rs1 rs2 => Sys2Proof.Machine.execOr rd rs1 rs2 s
  | .xor rd rs1 rs2 => Sys2Proof.Machine.execXor rd rs1 rs2 s
  | .add64 rd rs1 rs2 => Sys2Proof.Machine.execAdd64 rd rs1 rs2 s
  | .sub64 rd rs1 rs2 => Sys2Proof.Machine.execSub64 rd rs1 rs2 s
  | .mul64 rd rs1 rs2 => Sys2Proof.Machine.execMul64 rd rs1 rs2 s
  | .divs64 rd rs1 rs2 => Sys2Proof.Machine.execDivs64 rd rs1 rs2 s
  | .divu64 rd rs1 rs2 => Sys2Proof.Machine.execDivu64 rd rs1 rs2 s
  | .rems64 rd rs1 rs2 => Sys2Proof.Machine.execRems64 rd rs1 rs2 s
  | .remu64 rd rs1 rs2 => Sys2Proof.Machine.execRemu64 rd rs1 rs2 s
  | .and64 rd rs1 rs2 => Sys2Proof.Machine.execAnd64 rd rs1 rs2 s
  | .or64 rd rs1 rs2 => Sys2Proof.Machine.execOr64 rd rs1 rs2 s
  | .xor64 rd rs1 rs2 => Sys2Proof.Machine.execXor64 rd rs1 rs2 s
  | .sla rd rs1 imm => Sys2Proof.Machine.execSla rd rs1 imm s
  | .sra rd rs1 imm => Sys2Proof.Machine.execSra rd rs1 imm s
  | .srl rd rs1 imm => Sys2Proof.Machine.execSrl rd rs1 imm s
  | .rol rd rs1 imm => Sys2Proof.Machine.execRol rd rs1 imm s
  | .ror rd rs1 imm => Sys2Proof.Machine.execRor rd rs1 imm s
  | .clz rd => Sys2Proof.Machine.execClz rd s
  | .ctz rd => Sys2Proof.Machine.execCtz rd s
  | .popc rd => Sys2Proof.Machine.execPopc rd s
  | .sla64 rd rs1 imm => Sys2Proof.Machine.execSla64 rd rs1 imm s
  | .sra64 rd rs1 imm => Sys2Proof.Machine.execSra64 rd rs1 imm s
  | .srl64 rd rs1 imm => Sys2Proof.Machine.execSrl64 rd rs1 imm s
  | .rol64 rd rs1 imm => Sys2Proof.Machine.execRol64 rd rs1 imm s
  | .ror64 rd rs1 imm => Sys2Proof.Machine.execRor64 rd rs1 imm s
  | .clz64 rd => Sys2Proof.Machine.execClz64 rd s
  | .ctz64 rd => Sys2Proof.Machine.execCtz64 rd s
  | .popc64 rd => Sys2Proof.Machine.execPopc64 rd s
  | .eq rd => Sys2Proof.Machine.execEq rd s
  | .ne rd => Sys2Proof.Machine.execNe rd s
  | .lts rd => Sys2Proof.Machine.execLts rd s
  | .les rd => Sys2Proof.Machine.execLes rd s
  | .gts rd => Sys2Proof.Machine.execGts rd s
  | .ges rd => Sys2Proof.Machine.execGes rd s
  | .ltu rd => Sys2Proof.Machine.execLtu rd s
  | .leu rd => Sys2Proof.Machine.execLeu rd s
  | .gtu rd => Sys2Proof.Machine.execGtu rd s
  | .geu rd => Sys2Proof.Machine.execGeu rd s
  | .eq64 rd => Sys2Proof.Machine.execEq64 rd s
  | .ne64 rd => Sys2Proof.Machine.execNe64 rd s
  | .lts64 rd => Sys2Proof.Machine.execLts64 rd s
  | .les64 rd => Sys2Proof.Machine.execLes64 rd s
  | .gts64 rd => Sys2Proof.Machine.execGts64 rd s
  | .ges64 rd => Sys2Proof.Machine.execGes64 rd s
  | .ltu64 rd => Sys2Proof.Machine.execLtu64 rd s
  | .leu64 rd => Sys2Proof.Machine.execLeu64 rd s
  | .gtu64 rd => Sys2Proof.Machine.execGtu64 rd s
  | .geu64 rd => Sys2Proof.Machine.execGeu64 rd s
  | .ld rd imm => Sys2Proof.Machine.execLd rd imm s
  | .ldX32 rd imm => Sys2Proof.Machine.execLdX32 rd imm s
  | .ldX64 rd imm => Sys2Proof.Machine.execLdX64 rd imm s
  | .ld8u rd rs1 imm => Sys2Proof.Machine.execLd8u rd rs1 imm s
  | .ld8s rd rs1 imm => Sys2Proof.Machine.execLd8s rd rs1 imm s
  | .ld16u rd rs1 imm => Sys2Proof.Machine.execLd16u rd rs1 imm s
  | .ld16s rd rs1 imm => Sys2Proof.Machine.execLd16s rd rs1 imm s
  | .ld32 rd rs1 imm => Sys2Proof.Machine.execLd32 rd rs1 imm s
  | .ld64 rd rs1 imm => Sys2Proof.Machine.execLd64 rd rs1 imm s
  | .ld8u64 rd rs1 imm => Sys2Proof.Machine.execLd8u64 rd rs1 imm s
  | .ld8s64 rd rs1 imm => Sys2Proof.Machine.execLd8s64 rd rs1 imm s
  | .ld16u64 rd rs1 imm => Sys2Proof.Machine.execLd16u64 rd rs1 imm s
  | .ld16s64 rd rs1 imm => Sys2Proof.Machine.execLd16s64 rd rs1 imm s
  | .ld32u64 rd rs1 imm => Sys2Proof.Machine.execLd32u64 rd rs1 imm s
  | .ld32s64 rd rs1 imm => Sys2Proof.Machine.execLd32s64 rd rs1 imm s
  | .st8 rs1 rs2 imm => Sys2Proof.Machine.execSt8 rs1 rs2 imm s
  | .st8_64 rs1 rs2 imm => Sys2Proof.Machine.execSt8_64 rs1 rs2 imm s
  | .st16 rs1 rs2 imm => Sys2Proof.Machine.execSt16 rs1 rs2 imm s
  | .st16_64 rs1 rs2 imm => Sys2Proof.Machine.execSt16_64 rs1 rs2 imm s
  | .st32 rs1 rs2 imm => Sys2Proof.Machine.execSt32 rs1 rs2 imm s
  | .st32_64 rs1 rs2 imm => Sys2Proof.Machine.execSt32_64 rs1 rs2 imm s
  | .st64 rs1 rs2 imm => Sys2Proof.Machine.execSt64 rs1 rs2 imm s
  | .ldir => Sys2Proof.Machine.execLdir s
  | .fill => Sys2Proof.Machine.execFill s

end Sys2Proof.Machine
end

