-- ==== Sys2Proof/WellFormed.lean ====
section
/-! DEFINITION. Well-formedness. Every term of `Instr` is encodable (its registers and conditions are enumerations), so the
checks here are those that raw data can fail: the constraints of R5 on the parameters, the legality of a base word by the
table of encodings (one row per row of spec/opcode_table.json; R51, R53, R57, R58, R65, R76), and the shortest-form rule that
binds an encoder (R62). The decoder of Sys2Proof/Decode.lean is written from the procedure of R64, not from this table. -/

namespace Sys2Proof

/-- R5: `MEM_SIZE < 2^63`. -/
def Config.memSizeOk (c : Config) : Bool := decide (c.memSize < 2 ^ 63)

/-- R5: `PROG_BASE` is a multiple of 4. -/
def Config.progBaseAligned (c : Config) : Bool := decide (c.progBase.toNat % 4 = 0)

/-- R5: an image of `n` words fits, `PROG_BASE + 4*n <= 2^64`. -/
def Config.imageFits (c : Config) (n : Nat) : Bool := decide (c.progBase.toNat + 4 * n ≤ 2 ^ 64)

/-- The parameters meet the constraints of R5 for an image of `n` words. -/
def Config.wf (c : Config) (n : Nat) : Bool := c.memSizeOk && c.progBaseAligned && c.imageFits n

/-- What an encoding row asks of a four-bit field of the base word. -/
inductive FieldRule where
  /-- the field holds this value (zero for an unused field; `XW`; a fixed register of R57) -/
  | exactly (v : BitVec 4)
  /-- a register index, 0 to 4 (R65) -/
  | register
  /-- a condition code, 0 to 10 (R76) -/
  | condition
deriving DecidableEq, Repr

/-- The check of one four-bit field. -/
def FieldRule.accepts : FieldRule → BitVec 4 → Bool
  | .exactly v, x => x == v
  | .register, x => decide (x.toNat ≤ 4)
  | .condition, x => decide (x.toNat ≤ 10)

/-- One row of the table of encodings: the opcode value, the rule of each field, whether `IMM12` is free (else it must be
zero), and the length in words. -/
structure EncodingRow where
  op : BitVec 8
  rd : FieldRule
  rs1 : FieldRule
  rs2 : FieldRule
  immFree : Bool
  words : Nat
deriving DecidableEq, Repr

/-- The base word fits the row. -/
def EncodingRow.accepts (r : EncodingRow) (f : Fields) : Bool :=
  f.op == r.op && r.rd.accepts f.rd && r.rs1.accepts f.rs1 && r.rs2.accepts f.rs2 && (r.immFree || f.imm == 0#12)

/-- The rows of control flow, `CP`, `DROP`, `INC`, `DEC` (opcodes `0x0_`). -/
def encodingRowsControl : List EncodingRow := [
  ⟨0x00, .exactly 0, .exactly 0, .exactly 0, true, 1⟩,
  ⟨0x00, .exactly 0, .exactly 0, .exactly 1, false, 2⟩,
  ⟨0x00, .exactly 0, .exactly 0, .exactly 2, false, 3⟩,
  ⟨0x01, .exactly 0, .exactly 0, .exactly 0, false, 1⟩,
  ⟨0x02, .exactly 0, .condition, .exactly 0, true, 1⟩,
  ⟨0x02, .exactly 0, .condition, .exactly 1, false, 2⟩,
  ⟨0x03, .register, .exactly 0, .exactly 0, true, 1⟩,
  ⟨0x03, .register, .exactly 0, .exactly 1, false, 2⟩,
  ⟨0x04, .exactly 0, .exactly 0, .exactly 0, false, 1⟩,
  ⟨0x05, .register, .exactly 0, .exactly 0, false, 1⟩,
  ⟨0x06, .register, .exactly 0, .exactly 0, false, 1⟩]

/-- The rows of arithmetic and logic (opcodes `0x1_`, `0x2_`). -/
def encodingRowsArith : List EncodingRow := [
  ⟨0x10, .register, .register, .register, false, 1⟩,
  ⟨0x11, .register, .register, .register, false, 1⟩,
  ⟨0x12, .register, .register, .register, false, 1⟩,
  ⟨0x13, .register, .register, .register, false, 1⟩,
  ⟨0x14, .register, .register, .register, false, 1⟩,
  ⟨0x15, .register, .register, .register, false, 1⟩,
  ⟨0x16, .register, .register, .register, false, 1⟩,
  ⟨0x17, .register, .register, .register, false, 1⟩,
  ⟨0x18, .register, .register, .register, false, 1⟩,
  ⟨0x19, .register, .register, .register, false, 1⟩,
  ⟨0x20, .register, .register, .register, false, 1⟩,
  ⟨0x21, .register, .register, .register, false, 1⟩,
  ⟨0x22, .register, .register, .register, false, 1⟩,
  ⟨0x23, .register, .register, .register, false, 1⟩,
  ⟨0x24, .register, .register, .register, false, 1⟩,
  ⟨0x25, .register, .register, .register, false, 1⟩,
  ⟨0x26, .register, .register, .register, false, 1⟩,
  ⟨0x27, .register, .register, .register, false, 1⟩,
  ⟨0x28, .register, .register, .register, false, 1⟩,
  ⟨0x29, .register, .register, .register, false, 1⟩]

/-- The rows of shifts, rotates and counts (opcodes `0x3_`, `0x4_`). -/
def encodingRowsShift : List EncodingRow := [
  ⟨0x30, .register, .register, .exactly 0, true, 1⟩,
  ⟨0x31, .register, .register, .exactly 0, true, 1⟩,
  ⟨0x32, .register, .register, .exactly 0, true, 1⟩,
  ⟨0x33, .register, .register, .exactly 0, true, 1⟩,
  ⟨0x34, .register, .register, .exactly 0, true, 1⟩,
  ⟨0x35, .register, .exactly 0, .exactly 0, false, 1⟩,
  ⟨0x36, .register, .exactly 0, .exactly 0, false, 1⟩,
  ⟨0x37, .register, .exactly 0, .exactly 0, false, 1⟩,
  ⟨0x40, .register, .register, .exactly 0, true, 1⟩,
  ⟨0x41, .register, .register, .exactly 0, true, 1⟩,
  ⟨0x42, .register, .register, .exactly 0, true, 1⟩,
  ⟨0x43, .register, .register, .exactly 0, true, 1⟩,
  ⟨0x44, .register, .register, .exactly 0, true, 1⟩,
  ⟨0x45, .register, .exactly 0, .exactly 0, false, 1⟩,
  ⟨0x46, .register, .exactly 0, .exactly 0, false, 1⟩,
  ⟨0x47, .register, .exactly 0, .exactly 0, false, 1⟩]

/-- The rows of compare/set (opcodes `0x5_`, `0x6_`). -/
def encodingRowsCompare : List EncodingRow := [
  ⟨0x50, .register, .exactly 0, .exactly 0, false, 1⟩,
  ⟨0x51, .register, .exactly 0, .exactly 0, false, 1⟩,
  ⟨0x52, .register, .exactly 0, .exactly 0, false, 1⟩,
  ⟨0x53, .register, .exactly 0, .exactly 0, false, 1⟩,
  ⟨0x54, .register, .exactly 0, .exactly 0, false, 1⟩,
  ⟨0x55, .register, .exactly 0, .exactly 0, false, 1⟩,
  ⟨0x56, .register, .exactly 0, .exactly 0, false, 1⟩,
  ⟨0x57, .register, .exactly 0, .exactly 0, false, 1⟩,
  ⟨0x58, .register, .exactly 0, .exactly 0, false, 1⟩,
  ⟨0x59, .register, .exactly 0, .exactly 0, false, 1⟩,
  ⟨0x60, .register, .exactly 0, .exactly 0, false, 1⟩,
  ⟨0x61, .register, .exactly 0, .exactly 0, false, 1⟩,
  ⟨0x62, .register, .exactly 0, .exactly 0, false, 1⟩,
  ⟨0x63, .register, .exactly 0, .exactly 0, false, 1⟩,
  ⟨0x64, .register, .exactly 0, .exactly 0, false, 1⟩,
  ⟨0x65, .register, .exactly 0, .exactly 0, false, 1⟩,
  ⟨0x66, .register, .exactly 0, .exactly 0, false, 1⟩,
  ⟨0x67, .register, .exactly 0, .exactly 0, false, 1⟩,
  ⟨0x68, .register, .exactly 0, .exactly 0, false, 1⟩,
  ⟨0x69, .register, .exactly 0, .exactly 0, false, 1⟩]

/-- The rows of `LD` and loads (opcodes `0x7_`). -/
def encodingRowsLoad : List EncodingRow := [
  ⟨0x70, .register, .exactly 0, .exactly 0, true, 1⟩,
  ⟨0x70, .register, .exactly 0, .exactly 1, false, 2⟩,
  ⟨0x70, .register, .exactly 0, .exactly 2, false, 3⟩,
  ⟨0x71, .register, .register, .exactly 0, true, 1⟩,
  ⟨0x72, .register, .register, .exactly 0, true, 1⟩,
  ⟨0x73, .register, .register, .exactly 0, true, 1⟩,
  ⟨0x74, .register, .register, .exactly 0, true, 1⟩,
  ⟨0x75, .register, .register, .exactly 0, true, 1⟩,
  ⟨0x76, .register, .register, .exactly 0, true, 1⟩,
  ⟨0x77, .register, .register, .exactly 0, true, 1⟩,
  ⟨0x78, .register, .register, .exactly 0, true, 1⟩,
  ⟨0x79, .register, .register, .exactly 0, true, 1⟩,
  ⟨0x7A, .register, .register, .exactly 0, true, 1⟩,
  ⟨0x7B, .register, .register, .exactly 0, true, 1⟩,
  ⟨0x7C, .register, .register, .exactly 0, true, 1⟩]

/-- The rows of stores and macro-ops (opcodes `0x8_`, `0x9_`). -/
def encodingRowsStore : List EncodingRow := [
  ⟨0x80, .exactly 0, .register, .register, true, 1⟩,
  ⟨0x81, .exactly 0, .register, .register, true, 1⟩,
  ⟨0x82, .exactly 0, .register, .register, true, 1⟩,
  ⟨0x83, .exactly 0, .register, .register, true, 1⟩,
  ⟨0x84, .exactly 0, .register, .register, true, 1⟩,
  ⟨0x85, .exactly 0, .register, .register, true, 1⟩,
  ⟨0x86, .exactly 0, .register, .register, true, 1⟩,
  ⟨0x90, .exactly 1, .exactly 0, .exactly 3, false, 1⟩,
  ⟨0x91, .exactly 0, .exactly 2, .exactly 3, false, 1⟩]

/-- The table of encodings: the 91 rows of spec/opcode_table.json. -/
def encodingTable : List EncodingRow :=
  encodingRowsControl ++ encodingRowsArith ++ encodingRowsShift ++ encodingRowsCompare ++ encodingRowsLoad ++ encodingRowsStore

/-- A base word is legal when some row of the table accepts it. -/
def Fields.legal (f : Fields) : Bool := encodingTable.any (fun r => r.accepts f)

/-- `-2048 <= v <= 2047`: the value fits in 12 bits (R62). -/
def fits12 (v : Int) : Bool := decide (-2048 ≤ v ∧ v ≤ 2047)

/-- `-2^31 <= v <= 2^31 - 1`: the value fits in 32 bits (R62). -/
def fits32 (v : Int) : Bool := decide (-2147483648 ≤ v ∧ v ≤ 2147483647)

/-- R62: the instruction has the shortest form that holds its immediate, as an encoder must emit it. The decoder accepts
longer forms too. -/
def Instr.shortestForm : Instr → Bool
  | .callX32 imm | .jrX32 _ imm | .cpX32 _ imm | .ldX32 _ imm => !fits12 imm.toInt
  | .callX64 imm | .ldX64 _ imm => !fits32 imm.toInt
  | _ => true

end Sys2Proof
end

