-- ==== Sys2Proof/Decode.lean ====
section
/-! DEFINITION. The decoder of R64 (spec/30_encoding.md), total on any words and on any bytes, rejecting by name; after it
the encoder, the round-trip's other half; the byte order of instruction words on the wire (R30); the static check of a
program image (R67). -/

namespace Sys2Proof

/-! ### Words and bytes -/

/-- The fields of a base word (R51). -/
def Fields.ofWord (w : Word32) : Fields :=
  { op := w.extractLsb' 24 8, rd := w.extractLsb' 20 4, rs1 := w.extractLsb' 16 4, rs2 := w.extractLsb' 12 4,
    imm := w.extractLsb' 0 12 }

/-- The base word of the fields: `OPCODE<<24 | RD<<20 | RS1<<16 | RS2<<12 | IMM12` (R51). -/
def Fields.toWord (f : Fields) : Word32 := f.op ++ f.rd ++ f.rs1 ++ f.rs2 ++ f.imm

/-- The four bytes of an instruction word on the wire, lowest address first: little-endian (R30). -/
def wireBytes (w : Word32) : List Byte :=
  [w.extractLsb' 0 8, w.extractLsb' 8 8, w.extractLsb' 16 8, w.extractLsb' 24 8]

/-- The word of four bytes on the wire, lowest address first (R30). -/
def wireWord (b0 b1 b2 b3 : Byte) : Word32 := b3 ++ b2 ++ b1 ++ b0

/-- The words of a byte image; one to three bytes left over at the end make no word. -/
def wordsOfBytes : List Byte → List Word32
  | b0 :: b1 :: b2 :: b3 :: rest => wireWord b0 b1 b2 b3 :: wordsOfBytes rest
  | _ => []

/-- The byte image of words (R30). -/
def bytesOfWords (ws : List Word32) : List Byte := ws.flatMap wireBytes

/-! ### Operand fields -/

/-- The index of a register (R10). -/
def Reg.index : Reg → BitVec 4
  | .hl => 0#4 | .de => 1#4 | .a => 2#4 | .bc => 3#4 | .ix => 4#4

/-- The register of an index; 5 to 15 are reserved (R10, R11). -/
def Reg.ofIndex (v : BitVec 4) : Option Reg :=
  match v.toNat with
  | 0 => some .hl | 1 => some .de | 2 => some .a | 3 => some .bc | 4 => some .ix | _ => none

/-- The code of a condition (R76). -/
def Cond.code : Cond → BitVec 4
  | .al => 0#4 | .eq => 1#4 | .ne => 2#4 | .lts => 3#4 | .les => 4#4 | .gts => 5#4 | .ges => 6#4 | .ltu => 7#4
  | .leu => 8#4 | .gtu => 9#4 | .geu => 10#4

/-- The condition of a code; 11 to 15 are rejected (R76). -/
def Cond.ofCode (v : BitVec 4) : Option Cond :=
  match v.toNat with
  | 0 => some .al | 1 => some .eq | 2 => some .ne | 3 => some .lts | 4 => some .les | 5 => some .gts | 6 => some .ges
  | 7 => some .ltu | 8 => some .leu | 9 => some .gtu | 10 => some .geu | _ => none

/-! ### The opcode map -/

/-- The opcode value of each of the 85 opcodes (R70). -/
def Opcode.code : Opcode → BitVec 8
  | .call => 0x00#8 | .ret => 0x01#8 | .jr => 0x02#8 | .cp => 0x03#8 | .drop => 0x04#8 | .inc => 0x05#8
  | .dec => 0x06#8 | .add => 0x10#8 | .sub => 0x11#8 | .mul => 0x12#8 | .divs => 0x13#8 | .divu => 0x14#8
  | .rems => 0x15#8 | .remu => 0x16#8 | .and => 0x17#8 | .or => 0x18#8 | .xor => 0x19#8 | .add64 => 0x20#8
  | .sub64 => 0x21#8 | .mul64 => 0x22#8 | .divs64 => 0x23#8 | .divu64 => 0x24#8 | .rems64 => 0x25#8
  | .remu64 => 0x26#8 | .and64 => 0x27#8 | .or64 => 0x28#8 | .xor64 => 0x29#8 | .sla => 0x30#8 | .sra => 0x31#8
  | .srl => 0x32#8 | .rol => 0x33#8 | .ror => 0x34#8 | .clz => 0x35#8 | .ctz => 0x36#8 | .popc => 0x37#8
  | .sla64 => 0x40#8 | .sra64 => 0x41#8 | .srl64 => 0x42#8 | .rol64 => 0x43#8 | .ror64 => 0x44#8 | .clz64 => 0x45#8
  | .ctz64 => 0x46#8 | .popc64 => 0x47#8 | .eq => 0x50#8 | .ne => 0x51#8 | .lts => 0x52#8 | .les => 0x53#8
  | .gts => 0x54#8 | .ges => 0x55#8 | .ltu => 0x56#8 | .leu => 0x57#8 | .gtu => 0x58#8 | .geu => 0x59#8
  | .eq64 => 0x60#8 | .ne64 => 0x61#8 | .lts64 => 0x62#8 | .les64 => 0x63#8 | .gts64 => 0x64#8 | .ges64 => 0x65#8
  | .ltu64 => 0x66#8 | .leu64 => 0x67#8 | .gtu64 => 0x68#8 | .geu64 => 0x69#8 | .ld => 0x70#8 | .ld8u => 0x71#8
  | .ld8s => 0x72#8 | .ld16u => 0x73#8 | .ld16s => 0x74#8 | .ld32 => 0x75#8 | .ld64 => 0x76#8 | .ld8u64 => 0x77#8
  | .ld8s64 => 0x78#8 | .ld16u64 => 0x79#8 | .ld16s64 => 0x7A#8 | .ld32u64 => 0x7B#8 | .ld32s64 => 0x7C#8
  | .st8 => 0x80#8 | .st8_64 => 0x81#8 | .st16 => 0x82#8 | .st16_64 => 0x83#8 | .st32 => 0x84#8 | .st32_64 => 0x85#8
  | .st64 => 0x86#8 | .ldir => 0x90#8 | .fill => 0x91#8

/-- The opcode of a value, which alone selects the instruction (R52); the other 171 values are reserved (R72 to R74). -/
def Opcode.ofCode (v : BitVec 8) : Option Opcode :=
  match v.toNat with
  | 0x00 => some .call | 0x01 => some .ret | 0x02 => some .jr | 0x03 => some .cp | 0x04 => some .drop
  | 0x05 => some .inc | 0x06 => some .dec | 0x10 => some .add | 0x11 => some .sub | 0x12 => some .mul
  | 0x13 => some .divs | 0x14 => some .divu | 0x15 => some .rems | 0x16 => some .remu | 0x17 => some .and
  | 0x18 => some .or | 0x19 => some .xor | 0x20 => some .add64 | 0x21 => some .sub64 | 0x22 => some .mul64
  | 0x23 => some .divs64 | 0x24 => some .divu64 | 0x25 => some .rems64 | 0x26 => some .remu64 | 0x27 => some .and64
  | 0x28 => some .or64 | 0x29 => some .xor64 | 0x30 => some .sla | 0x31 => some .sra | 0x32 => some .srl
  | 0x33 => some .rol | 0x34 => some .ror | 0x35 => some .clz | 0x36 => some .ctz | 0x37 => some .popc
  | 0x40 => some .sla64 | 0x41 => some .sra64 | 0x42 => some .srl64 | 0x43 => some .rol64 | 0x44 => some .ror64
  | 0x45 => some .clz64 | 0x46 => some .ctz64 | 0x47 => some .popc64 | 0x50 => some .eq | 0x51 => some .ne
  | 0x52 => some .lts | 0x53 => some .les | 0x54 => some .gts | 0x55 => some .ges | 0x56 => some .ltu
  | 0x57 => some .leu | 0x58 => some .gtu | 0x59 => some .geu | 0x60 => some .eq64 | 0x61 => some .ne64
  | 0x62 => some .lts64 | 0x63 => some .les64 | 0x64 => some .gts64 | 0x65 => some .ges64 | 0x66 => some .ltu64
  | 0x67 => some .leu64 | 0x68 => some .gtu64 | 0x69 => some .geu64 | 0x70 => some .ld | 0x71 => some .ld8u
  | 0x72 => some .ld8s | 0x73 => some .ld16u | 0x74 => some .ld16s | 0x75 => some .ld32 | 0x76 => some .ld64
  | 0x77 => some .ld8u64 | 0x78 => some .ld8s64 | 0x79 => some .ld16u64 | 0x7A => some .ld16s64
  | 0x7B => some .ld32u64 | 0x7C => some .ld32s64 | 0x80 => some .st8 | 0x81 => some .st8_64 | 0x82 => some .st16
  | 0x83 => some .st16_64 | 0x84 => some .st32 | 0x85 => some .st32_64 | 0x86 => some .st64 | 0x90 => some .ldir
  | 0x91 => some .fill | _ => none

/-- The format of each opcode (R54, R56, R57, R70). -/
def Opcode.format : Opcode → Format
  | .call | .cp | .ld => .imm
  | .ret | .drop => .z
  | .jr => .j
  | .inc | .dec | .clz | .ctz | .popc | .clz64 | .ctz64 | .popc64 | .eq | .ne | .lts | .les | .gts | .ges
    | .ltu | .leu | .gtu | .geu | .eq64 | .ne64 | .lts64 | .les64 | .gts64 | .ges64 | .ltu64 | .leu64
    | .gtu64 | .geu64 => .r
  | .add | .sub | .mul | .divs | .divu | .rems | .remu | .and | .or | .xor | .add64 | .sub64 | .mul64
    | .divs64 | .divu64 | .rems64 | .remu64 | .and64 | .or64 | .xor64 => .rrr
  | .sla | .sra | .srl | .rol | .ror | .sla64 | .sra64 | .srl64 | .rol64 | .ror64 => .rri12
  | .ld8u | .ld8s | .ld16u | .ld16s | .ld32 | .ld64 | .ld8u64 | .ld8s64 | .ld16u64 | .ld16s64 | .ld32u64
    | .ld32s64 => .mem
  | .st8 | .st8_64 | .st16 | .st16_64 | .st32 | .st32_64 | .st64 => .store
  | .ldir | .fill => .rrrFixed

/-- The base mode of a format (R63); format `IMM` and the instructions without operands are not in the source's list. -/
def Format.addressingMode : Format → Option AddressingMode
  | .rrr | .r | .rrrFixed => some .reg
  | .rri12 => some .regImm12
  | .mem | .store => some .memBaseImm12
  | .j => some .pcRel
  | .imm | .z => none

/-- The family of an opcode, its high nibble; the decoder does not use it (R71). -/
def Opcode.family (op : Opcode) : Family :=
  match op.code.toNat / 16 with
  | 0 => .control
  | 1 | 2 => .arithLogic
  | 3 | 4 => .shiftCount
  | 5 | 6 => .compareSet
  | 7 => .load
  | 8 => .store
  | _ => .macroOp

/-- The 64-bit form of a 32-bit operation of the paired families, `0x10` above it (R71). -/
def Opcode.wide (op : Opcode) : Option Opcode :=
  match op.code.toNat / 16 with
  | 1 | 3 | 5 => Opcode.ofCode (op.code + 0x10#8)
  | _ => none

/-! ### The checks of R64 -/

/-- Step 3: every field the format does not use is 0 (R53). -/
def unusedFieldsZero : Format → Fields → Bool
  | .rrr, f | .rrrFixed, f => f.imm == 0#12
  | .rri12, f | .mem, f => f.rs2 == 0#4
  | .r, f => f.rs1 == 0#4 && f.rs2 == 0#4 && f.imm == 0#12
  | .store, f | .j, f => f.rd == 0#4
  | .imm, f => f.rs1 == 0#4
  | .z, f => f.rd == 0#4 && f.rs1 == 0#4 && f.rs2 == 0#4 && f.imm == 0#12

/-- A field is a legal register index (R65). -/
def isRegister (v : BitVec 4) : Bool := (Reg.ofIndex v).isSome

/-- Step 4: every field the format uses as a register index is at most 4 (R65). -/
def registersLegal : Format → Fields → Bool
  | .rrr, f | .rrrFixed, f => isRegister f.rd && isRegister f.rs1 && isRegister f.rs2
  | .rri12, f | .mem, f => isRegister f.rd && isRegister f.rs1
  | .r, f | .imm, f => isRegister f.rd
  | .store, f => isRegister f.rs1 && isRegister f.rs2
  | .j, _ | .z, _ => true

/-- Step 5: the checks of one opcode alone (R57, R76, R244). -/
def opSpecific : Opcode → Fields → Option Reject
  | .jr, f => if (Cond.ofCode f.rs1).isSome then none else some .reservedCondition
  | .call, f => if f.rd == 0#4 then none else some .callRdNotZero
  | .ldir, f => if f.rd == 1#4 && f.rs1 == 0#4 && f.rs2 == 3#4 then none else some .notFixedRegisters
  | .fill, f => if f.rd == 0#4 && f.rs1 == 2#4 && f.rs2 == 3#4 then none else some .notFixedRegisters
  | _, _ => none

/-- The largest extension-word count of an opcode (R58): `LD` and `CALL` 2, `CP` and `JR` 1, every other opcode 0. -/
def Opcode.maxExt : Opcode → Nat
  | .ld | .call => 2
  | .cp | .jr => 1
  | _ => 0

/-- The extension-word count `XW` of a base word (R58): under `rs2_count` the `RS2` field of formats `IMM` and `J`; every
other format has none. -/
def extCount : ExtScheme → Format → Fields → Nat
  | .rs2Count, .imm, f | .rs2Count, .j, f => f.rs2.toNat
  | .rs2Count, _, _ => 0

/-- Step 6: the extension words of the instruction, taken from the words after the base word. -/
def extWords (scheme : ExtScheme) (op : Opcode) (f : Fields) (rest : List Word32) : Except Reject (List Word32) :=
  let xw := extCount scheme op.format f
  if op.maxExt < xw then .error .extCountNotAllowed
  else if xw ≠ 0 ∧ f.imm ≠ 0#12 then .error .headerImmNotZero
  else if rest.length < xw then .error .missingExtWord
  else .ok (rest.take xw)

/-! ### Building the instruction (step 7) -/

/-- Format `RRR`: three registers. -/
def buildRRR (mk : Reg → Reg → Reg → Instr) (f : Fields) : Option Instr :=
  match Reg.ofIndex f.rd, Reg.ofIndex f.rs1, Reg.ofIndex f.rs2 with
  | some rd, some rs1, some rs2 => some (mk rd rs1 rs2)
  | _, _, _ => none

/-- Formats `RRI12` and `MEM`: two registers and `IMM12`. -/
def buildRRI (mk : Reg → Reg → BitVec 12 → Instr) (f : Fields) : Option Instr :=
  match Reg.ofIndex f.rd, Reg.ofIndex f.rs1 with
  | some rd, some rs1 => some (mk rd rs1 f.imm)
  | _, _ => none

/-- Format `STORE`: base and data registers and `IMM12`. -/
def buildStore (mk : Reg → Reg → BitVec 12 → Instr) (f : Fields) : Option Instr :=
  match Reg.ofIndex f.rs1, Reg.ofIndex f.rs2 with
  | some rs1, some rs2 => some (mk rs1 rs2 f.imm)
  | _, _ => none

/-- Format `R`: one register. -/
def buildR (mk : Reg → Instr) (f : Fields) : Option Instr := (Reg.ofIndex f.rd).map mk

/-- `IMM64` of two extension words: the low half comes first (R61). -/
def imm64 (word1 word2 : Word32) : Word := word2 ++ word1

/-- The instruction of an opcode, its fields and its extension words. -/
def build (op : Opcode) (f : Fields) (ext : List Word32) : Option Instr :=
  match op with
  | .call =>
    match ext with
    | [] => some (.call f.imm)
    | [w1] => some (.callX32 w1)
    | [w1, w2] => some (.callX64 (imm64 w1 w2))
    | _ => none
  | .ret => some .ret
  | .jr =>
    match Cond.ofCode f.rs1, ext with
    | some cc, [] => some (.jr cc f.imm)
    | some cc, [w1] => some (.jrX32 cc w1)
    | _, _ => none
  | .cp =>
    match Reg.ofIndex f.rd, ext with
    | some rd, [] => some (.cp rd f.imm)
    | some rd, [w1] => some (.cpX32 rd w1)
    | _, _ => none
  | .drop => some .drop
  | .inc => buildR .inc f
  | .dec => buildR .dec f
  | .add => buildRRR .add f
  | .sub => buildRRR .sub f
  | .mul => buildRRR .mul f
  | .divs => buildRRR .divs f
  | .divu => buildRRR .divu f
  | .rems => buildRRR .rems f
  | .remu => buildRRR .remu f
  | .and => buildRRR .and f
  | .or => buildRRR .or f
  | .xor => buildRRR .xor f
  | .add64 => buildRRR .add64 f
  | .sub64 => buildRRR .sub64 f
  | .mul64 => buildRRR .mul64 f
  | .divs64 => buildRRR .divs64 f
  | .divu64 => buildRRR .divu64 f
  | .rems64 => buildRRR .rems64 f
  | .remu64 => buildRRR .remu64 f
  | .and64 => buildRRR .and64 f
  | .or64 => buildRRR .or64 f
  | .xor64 => buildRRR .xor64 f
  | .sla => buildRRI .sla f
  | .sra => buildRRI .sra f
  | .srl => buildRRI .srl f
  | .rol => buildRRI .rol f
  | .ror => buildRRI .ror f
  | .clz => buildR .clz f
  | .ctz => buildR .ctz f
  | .popc => buildR .popc f
  | .sla64 => buildRRI .sla64 f
  | .sra64 => buildRRI .sra64 f
  | .srl64 => buildRRI .srl64 f
  | .rol64 => buildRRI .rol64 f
  | .ror64 => buildRRI .ror64 f
  | .clz64 => buildR .clz64 f
  | .ctz64 => buildR .ctz64 f
  | .popc64 => buildR .popc64 f
  | .eq => buildR .eq f
  | .ne => buildR .ne f
  | .lts => buildR .lts f
  | .les => buildR .les f
  | .gts => buildR .gts f
  | .ges => buildR .ges f
  | .ltu => buildR .ltu f
  | .leu => buildR .leu f
  | .gtu => buildR .gtu f
  | .geu => buildR .geu f
  | .eq64 => buildR .eq64 f
  | .ne64 => buildR .ne64 f
  | .lts64 => buildR .lts64 f
  | .les64 => buildR .les64 f
  | .gts64 => buildR .gts64 f
  | .ges64 => buildR .ges64 f
  | .ltu64 => buildR .ltu64 f
  | .leu64 => buildR .leu64 f
  | .gtu64 => buildR .gtu64 f
  | .geu64 => buildR .geu64 f
  | .ld =>
    match Reg.ofIndex f.rd, ext with
    | some rd, [] => some (.ld rd f.imm)
    | some rd, [w1] => some (.ldX32 rd w1)
    | some rd, [w1, w2] => some (.ldX64 rd (imm64 w1 w2))
    | _, _ => none
  | .ld8u => buildRRI .ld8u f
  | .ld8s => buildRRI .ld8s f
  | .ld16u => buildRRI .ld16u f
  | .ld16s => buildRRI .ld16s f
  | .ld32 => buildRRI .ld32 f
  | .ld64 => buildRRI .ld64 f
  | .ld8u64 => buildRRI .ld8u64 f
  | .ld8s64 => buildRRI .ld8s64 f
  | .ld16u64 => buildRRI .ld16u64 f
  | .ld16s64 => buildRRI .ld16s64 f
  | .ld32u64 => buildRRI .ld32u64 f
  | .ld32s64 => buildRRI .ld32s64 f
  | .st8 => buildStore .st8 f
  | .st8_64 => buildStore .st8_64 f
  | .st16 => buildStore .st16 f
  | .st16_64 => buildStore .st16_64 f
  | .st32 => buildStore .st32 f
  | .st32_64 => buildStore .st32_64 f
  | .st64 => buildStore .st64 f
  | .ldir => some .ldir
  | .fill => some .fill

/-! ### The decoder -/

/-- R64, given the fields of the base word and the words that follow it in the image. -/
def decodeFields (scheme : ExtScheme) (f : Fields) (rest : List Word32) : Except Reject Instr :=
  match Opcode.ofCode f.op with
  | none => .error .reservedOpcode
  | some op =>
    if unusedFieldsZero op.format f = false then .error .unusedFieldNotZero
    else if registersLegal op.format f = false then .error .reservedRegister
    else
      match opSpecific op f with
      | some r => .error r
      | none =>
        match extWords scheme op f rest with
        | .error r => .error r
        | .ok ext =>
          match build op f ext with
          | some i => .ok i
          | none => .error .reservedRegister

/-- The decoder: the instruction at the head of a list of words (the image from the base word on), or why it is rejected. -/
def decode (scheme : ExtScheme) : List Word32 → Except Reject Instr
  | [] => .error .noBaseWord
  | w :: rest => decodeFields scheme (Fields.ofWord w) rest

/-- The decoder on bytes as they stand on the wire. -/
def decodeBytes (scheme : ExtScheme) (bytes : List Byte) : Except Reject Instr := decode scheme (wordsOfBytes bytes)

/-- The length of an instruction in words, `len = 1 + XW` (R58). -/
def Instr.len : Instr → Nat
  | .callX64 _ | .ldX64 _ _ => 3
  | .callX32 _ | .jrX32 _ _ | .cpX32 _ _ | .ldX32 _ _ => 2
  | _ => 1

/-! ### The encoder -/

/-- Format `RRR`: `RD`, `RS1`, `RS2`, `IMM12 = 0` (R99). -/
def fieldsRRR (op : Opcode) (rd rs1 rs2 : Reg) : Fields := ⟨op.code, rd.index, rs1.index, rs2.index, 0#12⟩

/-- Formats `RRI12` and `MEM`: `RD`, `RS1`, `IMM12`, `RS2 = 0` (R130, R200). -/
def fieldsRRI (op : Opcode) (rd rs1 : Reg) (imm : BitVec 12) : Fields := ⟨op.code, rd.index, rs1.index, 0#4, imm⟩

/-- Format `STORE`: `RS1`, `RS2`, `IMM12`, `RD = 0` (R220). -/
def fieldsStore (op : Opcode) (rs1 rs2 : Reg) (imm : BitVec 12) : Fields := ⟨op.code, 0#4, rs1.index, rs2.index, imm⟩

/-- Format `R`: `RD` only (R150, R171). -/
def fieldsR (op : Opcode) (rd : Reg) : Fields := ⟨op.code, rd.index, 0#4, 0#4, 0#12⟩

/-- Formats `IMM` and `J`: the `RD` field, the `RS1` field, `XW` in the `RS2` field, `IMM12` (R58). -/
def fieldsExt (op : Opcode) (rd rs1 xw : BitVec 4) (imm : BitVec 12) : Fields := ⟨op.code, rd, rs1, xw, imm⟩

/-- The fields of an instruction's base word. -/
def Instr.fields : Instr → Fields
  | .call imm => fieldsExt .call 0#4 0#4 0#4 imm
  | .callX32 _ => fieldsExt .call 0#4 0#4 1#4 0#12
  | .callX64 _ => fieldsExt .call 0#4 0#4 2#4 0#12
  | .ret => fieldsExt .ret 0#4 0#4 0#4 0#12
  | .jr cc imm => fieldsExt .jr 0#4 cc.code 0#4 imm
  | .jrX32 cc _ => fieldsExt .jr 0#4 cc.code 1#4 0#12
  | .cp rd imm => fieldsExt .cp rd.index 0#4 0#4 imm
  | .cpX32 rd _ => fieldsExt .cp rd.index 0#4 1#4 0#12
  | .drop => fieldsExt .drop 0#4 0#4 0#4 0#12
  | .inc rd => fieldsR .inc rd
  | .dec rd => fieldsR .dec rd
  | .add rd rs1 rs2 => fieldsRRR .add rd rs1 rs2
  | .sub rd rs1 rs2 => fieldsRRR .sub rd rs1 rs2
  | .mul rd rs1 rs2 => fieldsRRR .mul rd rs1 rs2
  | .divs rd rs1 rs2 => fieldsRRR .divs rd rs1 rs2
  | .divu rd rs1 rs2 => fieldsRRR .divu rd rs1 rs2
  | .rems rd rs1 rs2 => fieldsRRR .rems rd rs1 rs2
  | .remu rd rs1 rs2 => fieldsRRR .remu rd rs1 rs2
  | .and rd rs1 rs2 => fieldsRRR .and rd rs1 rs2
  | .or rd rs1 rs2 => fieldsRRR .or rd rs1 rs2
  | .xor rd rs1 rs2 => fieldsRRR .xor rd rs1 rs2
  | .add64 rd rs1 rs2 => fieldsRRR .add64 rd rs1 rs2
  | .sub64 rd rs1 rs2 => fieldsRRR .sub64 rd rs1 rs2
  | .mul64 rd rs1 rs2 => fieldsRRR .mul64 rd rs1 rs2
  | .divs64 rd rs1 rs2 => fieldsRRR .divs64 rd rs1 rs2
  | .divu64 rd rs1 rs2 => fieldsRRR .divu64 rd rs1 rs2
  | .rems64 rd rs1 rs2 => fieldsRRR .rems64 rd rs1 rs2
  | .remu64 rd rs1 rs2 => fieldsRRR .remu64 rd rs1 rs2
  | .and64 rd rs1 rs2 => fieldsRRR .and64 rd rs1 rs2
  | .or64 rd rs1 rs2 => fieldsRRR .or64 rd rs1 rs2
  | .xor64 rd rs1 rs2 => fieldsRRR .xor64 rd rs1 rs2
  | .sla rd rs1 imm => fieldsRRI .sla rd rs1 imm
  | .sra rd rs1 imm => fieldsRRI .sra rd rs1 imm
  | .srl rd rs1 imm => fieldsRRI .srl rd rs1 imm
  | .rol rd rs1 imm => fieldsRRI .rol rd rs1 imm
  | .ror rd rs1 imm => fieldsRRI .ror rd rs1 imm
  | .clz rd => fieldsR .clz rd
  | .ctz rd => fieldsR .ctz rd
  | .popc rd => fieldsR .popc rd
  | .sla64 rd rs1 imm => fieldsRRI .sla64 rd rs1 imm
  | .sra64 rd rs1 imm => fieldsRRI .sra64 rd rs1 imm
  | .srl64 rd rs1 imm => fieldsRRI .srl64 rd rs1 imm
  | .rol64 rd rs1 imm => fieldsRRI .rol64 rd rs1 imm
  | .ror64 rd rs1 imm => fieldsRRI .ror64 rd rs1 imm
  | .clz64 rd => fieldsR .clz64 rd
  | .ctz64 rd => fieldsR .ctz64 rd
  | .popc64 rd => fieldsR .popc64 rd
  | .eq rd => fieldsR .eq rd
  | .ne rd => fieldsR .ne rd
  | .lts rd => fieldsR .lts rd
  | .les rd => fieldsR .les rd
  | .gts rd => fieldsR .gts rd
  | .ges rd => fieldsR .ges rd
  | .ltu rd => fieldsR .ltu rd
  | .leu rd => fieldsR .leu rd
  | .gtu rd => fieldsR .gtu rd
  | .geu rd => fieldsR .geu rd
  | .eq64 rd => fieldsR .eq64 rd
  | .ne64 rd => fieldsR .ne64 rd
  | .lts64 rd => fieldsR .lts64 rd
  | .les64 rd => fieldsR .les64 rd
  | .gts64 rd => fieldsR .gts64 rd
  | .ges64 rd => fieldsR .ges64 rd
  | .ltu64 rd => fieldsR .ltu64 rd
  | .leu64 rd => fieldsR .leu64 rd
  | .gtu64 rd => fieldsR .gtu64 rd
  | .geu64 rd => fieldsR .geu64 rd
  | .ld rd imm => fieldsExt .ld rd.index 0#4 0#4 imm
  | .ldX32 rd _ => fieldsExt .ld rd.index 0#4 1#4 0#12
  | .ldX64 rd _ => fieldsExt .ld rd.index 0#4 2#4 0#12
  | .ld8u rd rs1 imm => fieldsRRI .ld8u rd rs1 imm
  | .ld8s rd rs1 imm => fieldsRRI .ld8s rd rs1 imm
  | .ld16u rd rs1 imm => fieldsRRI .ld16u rd rs1 imm
  | .ld16s rd rs1 imm => fieldsRRI .ld16s rd rs1 imm
  | .ld32 rd rs1 imm => fieldsRRI .ld32 rd rs1 imm
  | .ld64 rd rs1 imm => fieldsRRI .ld64 rd rs1 imm
  | .ld8u64 rd rs1 imm => fieldsRRI .ld8u64 rd rs1 imm
  | .ld8s64 rd rs1 imm => fieldsRRI .ld8s64 rd rs1 imm
  | .ld16u64 rd rs1 imm => fieldsRRI .ld16u64 rd rs1 imm
  | .ld16s64 rd rs1 imm => fieldsRRI .ld16s64 rd rs1 imm
  | .ld32u64 rd rs1 imm => fieldsRRI .ld32u64 rd rs1 imm
  | .ld32s64 rd rs1 imm => fieldsRRI .ld32s64 rd rs1 imm
  | .st8 rs1 rs2 imm => fieldsStore .st8 rs1 rs2 imm
  | .st8_64 rs1 rs2 imm => fieldsStore .st8_64 rs1 rs2 imm
  | .st16 rs1 rs2 imm => fieldsStore .st16 rs1 rs2 imm
  | .st16_64 rs1 rs2 imm => fieldsStore .st16_64 rs1 rs2 imm
  | .st32 rs1 rs2 imm => fieldsStore .st32 rs1 rs2 imm
  | .st32_64 rs1 rs2 imm => fieldsStore .st32_64 rs1 rs2 imm
  | .st64 rs1 rs2 imm => fieldsStore .st64 rs1 rs2 imm
  | .ldir => fieldsRRR .ldir .de .hl .bc
  | .fill => fieldsRRR .fill .hl .a .bc

/-- The extension words of an instruction: `IMM32`, or the two halves of `IMM64`, low half first (R58, R61). -/
def Instr.ext : Instr → List Word32
  | .callX32 imm | .jrX32 _ imm | .cpX32 _ imm | .ldX32 _ imm => [imm]
  | .callX64 imm | .ldX64 _ imm => [imm.extractLsb' 0 32, imm.extractLsb' 32 32]
  | _ => []

/-- The encoder under `rs2_count`: the base word, then the extension words. -/
def encode (i : Instr) : List Word32 := i.fields.toWord :: i.ext

/-- The encoder to bytes on the wire. -/
def encodeBytes (i : Instr) : List Byte := bytesOfWords (encode i)

/-! ### The static check of an image -/

/-- The linear sweep of R67, with at most `fuel` instructions: every decode accepts and the last instruction ends at the end
of the image. An image of `n` words has at most `n` instructions. DESIGN CHOICE (log entry 10): the end is tested before the
first decode, so an empty image, which R67 does not settle, is accepted. -/
def sweep (scheme : ExtScheme) : Nat → List Word32 → Bool
  | _, [] => true
  | 0, _ :: _ => false
  | fuel + 1, w :: rest =>
    match decode scheme (w :: rest) with
    | .ok i => sweep scheme fuel ((w :: rest).drop i.len)
    | .error _ => false

/-- R67: the program image is well-formed, the empty image among them (log entry 10). A loader may refuse one that is not
(R66). -/
def imageWellFormed (scheme : ExtScheme) (prog : List Word32) : Bool := sweep scheme prog.length prog

/-! ### The host's word -/

/-- The words `w` stands for when the opcode table numbers the bits: bit 0 is the least significant bit of the first word,
a later word's bits count on from it, the bits from `nbits` up to the longest instruction (three words) are zero. -/
def tableWords (nbits w : Nat) : List Word32 :=
  let v := w % 2 ^ nbits
  [BitVec.ofNat 32 v, BitVec.ofNat 32 (v >>> 32), BitVec.ofNat 32 (v >>> 64)]

/-- The instruction the decoder reads from the bytes of `tableWords nbits w` as the hardware stores them. -/
def decodeTableWord (nbits w : Nat) : Option Instr :=
  (decodeBytes .rs2Count (bytesOfWords (tableWords nbits w))).toOption

end Sys2Proof
end

