-- ==== Sys2Proof/Machine/Fetch.lean ====
section
/-! DEFINITION. Instruction fetch (R42 of spec/20_memory.md) and the placing of a program's words in instruction space. -/

namespace Sys2Proof.Machine

/-- The address of the first byte after the image, `PROG_BASE + 4*len(PROG)`. -/
def State.imageEnd (s : State) : Nat := s.cfg.progBase.toNat + 4 * s.prog.length

/-- The program counter does not address a base word of the image: misaligned, or outside it (R42, R306). -/
def State.fetchFaults (s : State) : Bool :=
  decide (s.pc.toNat % 4 ≠ 0) || decide (s.pc.toNat < s.cfg.progBase.toNat) || decide (s.imageEnd ≤ s.pc.toNat)

/-- The index of the base word in the image, `(u(pc) - PROG_BASE) / 4` (R42). -/
def State.wordIndex (s : State) : Nat := (s.pc.toNat - s.cfg.progBase.toNat) / 4

/-- The words of the image from the base word at the program counter on. -/
def State.codeAtPc (s : State) : List Word32 := s.prog.drop s.wordIndex

/-- Fetch and decode: the instruction at the program counter, or the trap it raises, `FetchFault` before
`IllegalInstruction` (R42, R302, R306, R308). -/
def State.fetch (s : State) : Except Trap Instr :=
  if s.fetchFaults then .error (.fetchFault s.pc)
  else
    match decode s.cfg.extScheme s.codeAtPc with
    | .ok i => .ok i
    | .error _ => .error (.illegalInstruction (s.codeAtPc.headD 0#32))

/-- The state with three words placed where the next fetch reads, and Running. Inside or at the end of the image the words
replace what is there; where the program counter is outside it, the image becomes these words with the program counter as its
base (log entry 5). -/
def State.placeWords (s : State) (ws : List Word32) : State :=
  if s.cfg.progBase.toNat ≤ s.pc.toNat ∧ s.pc.toNat ≤ s.imageEnd then
    { s with
      prog := s.prog.take s.wordIndex ++ ws ++ s.prog.drop (s.wordIndex + ws.length)
      status := .running }
  else { s with prog := ws, cfg := { s.cfg with progBase := s.pc }, status := .running }

end Sys2Proof.Machine
end

