-- ==== Sys2Proof/Machine/Step.lean ====
section
/-! DEFINITION. One step: fetch, decode and execute one instruction (R42, R300, R348); a terminal state has no successor
(R20). And the host's way to place one instruction where the next step fetches it. -/

namespace Sys2Proof.Machine

/-- One instruction, from fetch to completion or trap. At `Halted` and `Trapped` the machine executes nothing further (R20):
there is no next state (log entry 8). -/
def step (s : State) : Host.Outcome State Fault Refusal :=
  match s.status with
  | .halted => .fault .halted
  | .trapped t _ => .fault (.trapped t)
  | .running =>
    match s.fetch with
    | .error t => .next (s.raise t)
    | .ok i => exec i s

/-- The state with the instruction of the opcode table's word stored where `step` fetches its next instruction. It stands
for the load of a program, which is the host's act before a run (R344, R346; log entry 5). -/
def State.withFetchWord (s : State) (nbits w : Nat) : State := s.placeWords (tableWords nbits w)

end Sys2Proof.Machine
end

