-- ==== Sys2Proof/Machine/Assembly.lean ====
section
/-! DEFINITION. The assembly side of the encoding: the mnemonic of each instruction (R70, R81), the assembly notation of R80
(the spec's own notation; numbers in decimal), the encoder's choice of the shortest form (R62), and the idioms of R84. Log
entry 14. -/

namespace Sys2Proof.Machine

/-- The name of a register (R10). -/
def regName : Reg → String
  | .hl => "HL" | .de => "DE" | .a => "A" | .bc => "BC" | .ix => "IX"

/-- The name of a condition, `AL` for always (R80, R170). -/
def condName : Cond → String
  | .al => "AL" | .eq => "EQ" | .ne => "NE" | .lts => "LTS" | .les => "LES" | .gts => "GTS" | .ges => "GES"
  | .ltu => "LTU" | .leu => "LEU" | .gtu => "GTU" | .geu => "GEU"

/-- The mnemonic of an opcode (R70; the width is part of the name, R81). -/
def opcodeName : Opcode → String
  | .call => "CALL" | .ret => "RET" | .jr => "JR" | .cp => "CP" | .drop => "DROP" | .inc => "INC" | .dec => "DEC"
  | .add => "ADD" | .sub => "SUB" | .mul => "MUL" | .divs => "DIVS" | .divu => "DIVU" | .rems => "REMS"
  | .remu => "REMU" | .and => "AND" | .or => "OR" | .xor => "XOR" | .add64 => "ADD64" | .sub64 => "SUB64"
  | .mul64 => "MUL64" | .divs64 => "DIVS64" | .divu64 => "DIVU64" | .rems64 => "REMS64" | .remu64 => "REMU64"
  | .and64 => "AND64" | .or64 => "OR64" | .xor64 => "XOR64" | .sla => "SLA" | .sra => "SRA" | .srl => "SRL"
  | .rol => "ROL" | .ror => "ROR" | .clz => "CLZ" | .ctz => "CTZ" | .popc => "POPC" | .sla64 => "SLA64"
  | .sra64 => "SRA64" | .srl64 => "SRL64" | .rol64 => "ROL64" | .ror64 => "ROR64" | .clz64 => "CLZ64"
  | .ctz64 => "CTZ64" | .popc64 => "POPC64" | .eq => "EQ" | .ne => "NE" | .lts => "LTS" | .les => "LES"
  | .gts => "GTS" | .ges => "GES" | .ltu => "LTU" | .leu => "LEU" | .gtu => "GTU" | .geu => "GEU" | .eq64 => "EQ64"
  | .ne64 => "NE64" | .lts64 => "LTS64" | .les64 => "LES64" | .gts64 => "GTS64" | .ges64 => "GES64"
  | .ltu64 => "LTU64" | .leu64 => "LEU64" | .gtu64 => "GTU64" | .geu64 => "GEU64" | .ld => "LD" | .ld8u => "LD8U"
  | .ld8s => "LD8S" | .ld16u => "LD16U" | .ld16s => "LD16S" | .ld32 => "LD32" | .ld64 => "LD64" | .ld8u64 => "LD8U64"
  | .ld8s64 => "LD8S64" | .ld16u64 => "LD16U64" | .ld16s64 => "LD16S64" | .ld32u64 => "LD32U64"
  | .ld32s64 => "LD32S64" | .st8 => "ST8" | .st8_64 => "ST8_64" | .st16 => "ST16" | .st16_64 => "ST16_64"
  | .st32 => "ST32" | .st32_64 => "ST32_64" | .st64 => "ST64" | .ldir => "LDIR" | .fill => "FILL"

/-- A memory operand, `[rs1 + imm]` (R80). -/
def memOperand (rs1 : Reg) (imm : Int) : String :=
  "[" ++ regName rs1 ++ (if imm < 0 then " - " else " + ") ++ toString imm.natAbs ++ "]"

/-- `OP rd, rs1, rs2` (R80). -/
def asmRRR (op : Opcode) (rd rs1 rs2 : Reg) : String :=
  opcodeName op ++ " " ++ regName rd ++ ", " ++ regName rs1 ++ ", " ++ regName rs2

/-- `OP rd, rs1, imm` (R80). -/
def asmRRI (op : Opcode) (rd rs1 : Reg) (imm : BitVec 12) : String :=
  opcodeName op ++ " " ++ regName rd ++ ", " ++ regName rs1 ++ ", " ++ toString imm.toInt

/-- `OP rd` (R80). -/
def asmR (op : Opcode) (rd : Reg) : String := opcodeName op ++ " " ++ regName rd

/-- `OP rd, [rs1 + imm]` (R80). -/
def asmMem (op : Opcode) (rd rs1 : Reg) (imm : BitVec 12) : String :=
  opcodeName op ++ " " ++ regName rd ++ ", " ++ memOperand rs1 imm.toInt

/-- `OP [rs1 + imm], rs2` (R80). -/
def asmStore (op : Opcode) (rs1 rs2 : Reg) (imm : BitVec 12) : String :=
  opcodeName op ++ " " ++ memOperand rs1 imm.toInt ++ ", " ++ regName rs2

/-- The suffix that forces a long form where a shorter one would hold the value (R80). -/
def longSuffix (i : Instr) : String :=
  if i.shortestForm then "" else if i.len = 2 then ".X32" else ".X64"

/-- The instruction in the notation of R80. -/
def asmOf (i : Instr) : String :=
  match i with
  | .call imm => opcodeName .call ++ longSuffix i ++ " " ++ toString imm.toInt
  | .callX32 imm => opcodeName .call ++ longSuffix i ++ " " ++ toString imm.toInt
  | .callX64 imm => opcodeName .call ++ longSuffix i ++ " " ++ toString imm.toInt
  | .ret => opcodeName .ret
  | .jr cc imm => opcodeName .jr ++ longSuffix i ++ " " ++ condName cc ++ ", " ++ toString imm.toInt
  | .jrX32 cc imm => opcodeName .jr ++ longSuffix i ++ " " ++ condName cc ++ ", " ++ toString imm.toInt
  | .cp rd imm => opcodeName .cp ++ longSuffix i ++ " " ++ regName rd ++ ", " ++ toString imm.toInt
  | .cpX32 rd imm => opcodeName .cp ++ longSuffix i ++ " " ++ regName rd ++ ", " ++ toString imm.toInt
  | .drop => opcodeName .drop
  | .inc rd => asmR .inc rd
  | .dec rd => asmR .dec rd
  | .add rd rs1 rs2 => asmRRR .add rd rs1 rs2
  | .sub rd rs1 rs2 => asmRRR .sub rd rs1 rs2
  | .mul rd rs1 rs2 => asmRRR .mul rd rs1 rs2
  | .divs rd rs1 rs2 => asmRRR .divs rd rs1 rs2
  | .divu rd rs1 rs2 => asmRRR .divu rd rs1 rs2
  | .rems rd rs1 rs2 => asmRRR .rems rd rs1 rs2
  | .remu rd rs1 rs2 => asmRRR .remu rd rs1 rs2
  | .and rd rs1 rs2 => asmRRR .and rd rs1 rs2
  | .or rd rs1 rs2 => asmRRR .or rd rs1 rs2
  | .xor rd rs1 rs2 => asmRRR .xor rd rs1 rs2
  | .add64 rd rs1 rs2 => asmRRR .add64 rd rs1 rs2
  | .sub64 rd rs1 rs2 => asmRRR .sub64 rd rs1 rs2
  | .mul64 rd rs1 rs2 => asmRRR .mul64 rd rs1 rs2
  | .divs64 rd rs1 rs2 => asmRRR .divs64 rd rs1 rs2
  | .divu64 rd rs1 rs2 => asmRRR .divu64 rd rs1 rs2
  | .rems64 rd rs1 rs2 => asmRRR .rems64 rd rs1 rs2
  | .remu64 rd rs1 rs2 => asmRRR .remu64 rd rs1 rs2
  | .and64 rd rs1 rs2 => asmRRR .and64 rd rs1 rs2
  | .or64 rd rs1 rs2 => asmRRR .or64 rd rs1 rs2
  | .xor64 rd rs1 rs2 => asmRRR .xor64 rd rs1 rs2
  | .sla rd rs1 imm => asmRRI .sla rd rs1 imm
  | .sra rd rs1 imm => asmRRI .sra rd rs1 imm
  | .srl rd rs1 imm => asmRRI .srl rd rs1 imm
  | .rol rd rs1 imm => asmRRI .rol rd rs1 imm
  | .ror rd rs1 imm => asmRRI .ror rd rs1 imm
  | .clz rd => asmR .clz rd
  | .ctz rd => asmR .ctz rd
  | .popc rd => asmR .popc rd
  | .sla64 rd rs1 imm => asmRRI .sla64 rd rs1 imm
  | .sra64 rd rs1 imm => asmRRI .sra64 rd rs1 imm
  | .srl64 rd rs1 imm => asmRRI .srl64 rd rs1 imm
  | .rol64 rd rs1 imm => asmRRI .rol64 rd rs1 imm
  | .ror64 rd rs1 imm => asmRRI .ror64 rd rs1 imm
  | .clz64 rd => asmR .clz64 rd
  | .ctz64 rd => asmR .ctz64 rd
  | .popc64 rd => asmR .popc64 rd
  | .eq rd => asmR .eq rd
  | .ne rd => asmR .ne rd
  | .lts rd => asmR .lts rd
  | .les rd => asmR .les rd
  | .gts rd => asmR .gts rd
  | .ges rd => asmR .ges rd
  | .ltu rd => asmR .ltu rd
  | .leu rd => asmR .leu rd
  | .gtu rd => asmR .gtu rd
  | .geu rd => asmR .geu rd
  | .eq64 rd => asmR .eq64 rd
  | .ne64 rd => asmR .ne64 rd
  | .lts64 rd => asmR .lts64 rd
  | .les64 rd => asmR .les64 rd
  | .gts64 rd => asmR .gts64 rd
  | .ges64 rd => asmR .ges64 rd
  | .ltu64 rd => asmR .ltu64 rd
  | .leu64 rd => asmR .leu64 rd
  | .gtu64 rd => asmR .gtu64 rd
  | .geu64 rd => asmR .geu64 rd
  | .ld rd imm => opcodeName .ld ++ longSuffix i ++ " " ++ regName rd ++ ", " ++ toString imm.toInt
  | .ldX32 rd imm => opcodeName .ld ++ longSuffix i ++ " " ++ regName rd ++ ", " ++ toString imm.toInt
  | .ldX64 rd imm => opcodeName .ld ++ longSuffix i ++ " " ++ regName rd ++ ", " ++ toString imm.toInt
  | .ld8u rd rs1 imm => asmMem .ld8u rd rs1 imm
  | .ld8s rd rs1 imm => asmMem .ld8s rd rs1 imm
  | .ld16u rd rs1 imm => asmMem .ld16u rd rs1 imm
  | .ld16s rd rs1 imm => asmMem .ld16s rd rs1 imm
  | .ld32 rd rs1 imm => asmMem .ld32 rd rs1 imm
  | .ld64 rd rs1 imm => asmMem .ld64 rd rs1 imm
  | .ld8u64 rd rs1 imm => asmMem .ld8u64 rd rs1 imm
  | .ld8s64 rd rs1 imm => asmMem .ld8s64 rd rs1 imm
  | .ld16u64 rd rs1 imm => asmMem .ld16u64 rd rs1 imm
  | .ld16s64 rd rs1 imm => asmMem .ld16s64 rd rs1 imm
  | .ld32u64 rd rs1 imm => asmMem .ld32u64 rd rs1 imm
  | .ld32s64 rd rs1 imm => asmMem .ld32s64 rd rs1 imm
  | .st8 rs1 rs2 imm => asmStore .st8 rs1 rs2 imm
  | .st8_64 rs1 rs2 imm => asmStore .st8_64 rs1 rs2 imm
  | .st16 rs1 rs2 imm => asmStore .st16 rs1 rs2 imm
  | .st16_64 rs1 rs2 imm => asmStore .st16_64 rs1 rs2 imm
  | .st32 rs1 rs2 imm => asmStore .st32 rs1 rs2 imm
  | .st32_64 rs1 rs2 imm => asmStore .st32_64 rs1 rs2 imm
  | .st64 rs1 rs2 imm => asmStore .st64 rs1 rs2 imm
  | .ldir => opcodeName .ldir
  | .fill => opcodeName .fill

/-- The encoder's form of `LD` of a 64-bit value: `IMM12` when possible, otherwise `IMM32`, otherwise `IMM64` (R62, R251). -/
def assembleLd (rd : Reg) (v : Word) : Instr :=
  if fits12 v.toInt then .ld rd (v.setWidth 12)
  else if fits32 v.toInt then .ldX32 rd (v.setWidth 32)
  else .ldX64 rd v

/-- The encoder's form of `CALL` to an absolute address (R62, R244). -/
def assembleCall (target : Word) : Instr :=
  if fits12 target.toInt then .call (target.setWidth 12)
  else if fits32 target.toInt then .callX32 (target.setWidth 32)
  else .callX64 target

/-- The encoder's form of `CP` with a 32-bit value (R62, R192). -/
def assembleCp (rd : Reg) (v : Word32) : Instr :=
  if fits12 v.toInt then .cp rd (v.setWidth 12) else .cpX32 rd v

/-- The encoder's form of `JR` with a displacement in words: `IMM32` when it does not fit in 12 bits (R62, R242). -/
def assembleJr (cc : Cond) (disp : Word32) : Instr :=
  if fits12 disp.toInt then .jr cc (disp.setWidth 12) else .jrX32 cc disp

/-! ### The idioms of R84 -/

/-- Copy a 64-bit register (R84). -/
def idiomCopy (rd rs : Reg) : Instr := .or64 rd rs rs

/-- Copy the low 32 bits of a register, zero-extended (R84). -/
def idiomCopyLow (rd rs : Reg) : Instr := .or rd rs rs

/-- Clear a register (R84). -/
def idiomClear (rd : Reg) : Instr := assembleLd rd 0#64

/-- Add a constant, through a register that is not the source (R84). -/
def idiomAddConst (rd rs tmp : Reg) (v : Word) : List Instr := [assembleLd tmp v, .add64 rd rs tmp]

end Sys2Proof.Machine
end

