-- ==== Sys2Proof/Safety.lean ====
section
/-! DEFINITION. The terms in which claims about the machine are stated: encodings written as sums (R51), what an instruction
writes and what it leaves alone, where it traps, the classes of instructions the whole-machine rules speak of, and the
invariant of every state a run reaches. -/

namespace Sys2Proof.Machine

/-! ### Encodings, written out -/

/-- The index of a register as a number (R10). -/
def regNum : Reg → Nat
  | .hl => 0 | .de => 1 | .a => 2 | .bc => 3 | .ix => 4

/-- The code of a condition as a number (R76). -/
def condNum : Cond → Nat
  | .al => 0 | .eq => 1 | .ne => 2 | .lts => 3 | .les => 4 | .gts => 5 | .ges => 6 | .ltu => 7 | .leu => 8 | .gtu => 9
  | .geu => 10

/-- `OPCODE<<24 | RD<<20 | RS1<<16 | RS2<<12 | IMM12` of field values given as numbers (R51). -/
def baseWord (op rd rs1 rs2 imm : Nat) : Word32 :=
  BitVec.ofNat 32 (op * 2 ^ 24 + rd * 2 ^ 20 + rs1 * 2 ^ 16 + rs2 * 2 ^ 12 + imm)

/-- The opcode value of a word, bits 31:24. -/
def opcodeByte (w : Word32) : Nat := w.toNat / 2 ^ 24

/-- The reserved opcode values, range by range (R72). -/
def reservedOpcode (n : Nat) : Bool :=
  decide ((0x07 ≤ n ∧ n ≤ 0x0F) ∨ (0x1A ≤ n ∧ n ≤ 0x1F) ∨ (0x2A ≤ n ∧ n ≤ 0x2F) ∨ (0x38 ≤ n ∧ n ≤ 0x3F) ∨
    (0x48 ≤ n ∧ n ≤ 0x4F) ∨ (0x5A ≤ n ∧ n ≤ 0x5F) ∨ (0x6A ≤ n ∧ n ≤ 0x6F) ∨ (0x7D ≤ n ∧ n ≤ 0x7F) ∨
    (0x87 ≤ n ∧ n ≤ 0x8F) ∨ (0x92 ≤ n ∧ n ≤ 0xFF))

/-! ### What a next state keeps -/

/-- Every byte of memory reads as before. -/
def SameMemory (s t : State) : Prop := ∀ a, Memory.read t.mem a = Memory.read s.mem a

/-- Every byte of memory outside `base .. base+n-1` reads as before. -/
def SameMemoryOutside (base n : Nat) (s t : State) : Prop :=
  ∀ a, ¬ (base ≤ a ∧ a < base + n) → Memory.read t.mem a = Memory.read s.mem a

/-- Instruction space and the parameters are as before (R27, R45). -/
def SameProgram (s t : State) : Prop := t.prog = s.prog ∧ t.cfg = s.cfg

/-- Every general register but those listed is as before. -/
def SameRegsBut (ds : List Reg) (s t : State) : Prop := ∀ r, r ∉ ds → t.reg r = s.reg r

/-- The program counter is at the next instruction, `len` words on, modulo `2^64` (R15). -/
def AdvancedBy (len : Nat) (s t : State) : Prop := t.pc.toNat = (s.pc.toNat + 4 * len) % 2 ^ 64

/-- The instruction wrote `v` to `rd`, advanced by `len` words and changed nothing else. -/
def WritesOnly (rd : Reg) (v : Word) (len : Nat) (s t : State) : Prop :=
  t.reg rd = v ∧ SameRegsBut [rd] s t ∧ t.cmp = s.cmp ∧ t.rs = s.rs ∧ t.status = s.status ∧ SameMemory s t ∧
    SameProgram s t ∧ AdvancedBy len s t

/-- Everything but the program counter is as before, and that is at the next instruction, `len` words on (R15). -/
def OnlyAdvances (len : Nat) (s t : State) : Prop := t = { s with pc := t.pc } ∧ AdvancedBy len s t

/-- General registers but those listed, return stack, status, instruction space and parameters are as before, and the program
counter is at the next instruction: what a store, a `CP` or a macro-op that completes leaves alone, memory and `CMP` apart. -/
def KeepsButMemoryCmp (ds : List Reg) (len : Nat) (s t : State) : Prop :=
  SameRegsBut ds s t ∧ t.rs = s.rs ∧ t.status = s.status ∧ SameProgram s t ∧ AdvancedBy len s t

/-! ### Where an instruction completes and where it traps -/

/-- `exec` answers a next state of which `P` holds. -/
def Completes (i : Instr) (s : State) (P : State → Prop) : Prop := ∃ t, exec i s = .next t ∧ P t

/-- `exec` takes the trap: only `status` changes (R300, R310). -/
def TrapsWith (i : Instr) (s : State) (c : Trap) : Prop := exec i s = .next { s with status := .trapped c s.pc }

/-- The instruction has this encoding, and the decoder reads it back, whatever words follow. -/
def EncodedAs (i : Instr) (ws : List Word32) : Prop :=
  encode i = ws ∧ ∀ rest, decode .rs2Count (ws ++ rest) = .ok i

/-- The decoder rejects the base word, whatever words follow. -/
def Rejected (w : Word32) : Prop := ∀ rest, ∃ r, decode .rs2Count (w :: rest) = .error r

/-! ### Values, as numbers -/

/-- `u(x[r] mod 2^w)`: an operand of a `w`-bit mnemonic (R100). -/
def operand (w : Nat) (s : State) (r : Reg) : Nat := (s.reg r).toNat % 2 ^ w

/-- `s(v)` of the `w`-bit value `v`, two's complement (R6). -/
def asSigned (w v : Nat) : Int := if v < 2 ^ (w - 1) then v else v - 2 ^ w

/-- `zext_64(trunc_w(z))`: what a `w`-bit mnemonic writes for the integer `z` (R6, R100). -/
def wrapTo (w : Nat) (z : Int) : Word := BitVec.ofInt 64 (z % 2 ^ w)

/-- The quotient truncated toward zero, by magnitude and sign (R101). -/
def quotientTowardZero (p q : Int) : Int :=
  if p < 0 ↔ q < 0 then (p.natAbs / q.natAbs : Nat) else -(p.natAbs / q.natAbs : Nat)

/-- The little-endian value of `n` bytes from an address up (R31). -/
def memValue (m : Memory) (x n : Nat) : Nat := ((List.range n).map (fun k => (Memory.read m (x + k)).toNat * 256 ^ k)).sum

/-- The table of conditions of R170, for a `w`-bit value. -/
def condTable (w : Nat) (cc : Cond) (v : Nat) : Bool :=
  match cc with
  | .al => true
  | .eq => v == 0
  | .ne => v != 0
  | .lts => decide (asSigned w v < 0)
  | .les => decide (asSigned w v ≤ 0)
  | .gts => decide (asSigned w v > 0)
  | .ges => decide (asSigned w v ≥ 0)
  | .ltu => false
  | .leu => v == 0
  | .gtu => v != 0
  | .geu => true

/-! ### The forms of a statement about one instruction -/

/-- A `w`-bit instruction of format `RRR` always completes and writes `f a b` of its operands, wrapped (R99, R100). -/
def RRRWrites (mk : Reg → Reg → Reg → Instr) (op w : Nat) (f : Int → Int → Int) : Prop :=
  ∀ (s : State) (rd rs1 rs2 : Reg),
    EncodedAs (mk rd rs1 rs2) [baseWord op (regNum rd) (regNum rs1) (regNum rs2) 0] ∧
      Completes (mk rd rs1 rs2) s (WritesOnly rd (wrapTo w (f (operand w s rs1) (operand w s rs2))) 1 s)

/-- A `w`-bit instruction of format `RRR` always completes and writes `g` of its operands bit by bit, the bits from `w` up
zero (R99, R100). -/
def RRRBitwise (mk : Reg → Reg → Reg → Instr) (op w : Nat) (g : Bool → Bool → Bool) : Prop :=
  ∀ (s : State) (rd rs1 rs2 : Reg),
    EncodedAs (mk rd rs1 rs2) [baseWord op (regNum rd) (regNum rs1) (regNum rs2) 0] ∧
      Completes (mk rd rs1 rs2) s (fun t => WritesOnly rd (t.reg rd) 1 s t ∧
        ∀ k < 64, (t.reg rd).getLsbD k = (decide (k < w) && g ((s.reg rs1).getLsbD k) ((s.reg rs2).getLsbD k)))

/-- A `w`-bit division or remainder: a zero divisor traps and writes nothing; where `ovf` holds of the signed operands it
traps with `IntegerOverflow`; else it completes and writes `f a b`, wrapped (R99 to R101). -/
def DividesOrTraps (mk : Reg → Reg → Reg → Instr) (op w : Nat) (ovf : Int → Int → Bool) (f : Nat → Nat → Int) : Prop :=
  ∀ (s : State) (rd rs1 rs2 : Reg),
    EncodedAs (mk rd rs1 rs2) [baseWord op (regNum rd) (regNum rs1) (regNum rs2) 0] ∧
      (operand w s rs2 = 0 → TrapsWith (mk rd rs1 rs2) s .divideByZero) ∧
      (operand w s rs2 ≠ 0 → ovf (asSigned w (operand w s rs1)) (asSigned w (operand w s rs2)) = true →
        TrapsWith (mk rd rs1 rs2) s .integerOverflow) ∧
      (operand w s rs2 ≠ 0 → ovf (asSigned w (operand w s rs1)) (asSigned w (operand w s rs2)) = false →
        Completes (mk rd rs1 rs2) s (WritesOnly rd (wrapTo w (f (operand w s rs1) (operand w s rs2))) 1 s))

/-- A `w`-bit instruction of format `RRI12` always completes and writes `f` of its operand and the amount `u(IMM12) mod w`,
wrapped (R130, R131). -/
def RRIWrites (mk : Reg → Reg → BitVec 12 → Instr) (op w : Nat) (f : Nat → Nat → Int) : Prop :=
  ∀ (s : State) (rd rs1 : Reg) (imm : BitVec 12),
    EncodedAs (mk rd rs1 imm) [baseWord op (regNum rd) (regNum rs1) 0 imm.toNat] ∧
      Completes (mk rd rs1 imm) s (WritesOnly rd (wrapTo w (f (operand w s rs1) (imm.toNat % w))) 1 s)

/-- A `w`-bit rotate: bit `j` of the result is bit `src n j` of the operand for the amount `n = u(IMM12) mod w`, the bits
from `w` up zero (R130, R131). -/
def Rotates (mk : Reg → Reg → BitVec 12 → Instr) (op w : Nat) (src : Nat → Nat → Nat) : Prop :=
  ∀ (s : State) (rd rs1 : Reg) (imm : BitVec 12),
    EncodedAs (mk rd rs1 imm) [baseWord op (regNum rd) (regNum rs1) 0 imm.toNat] ∧
      Completes (mk rd rs1 imm) s (fun t => WritesOnly rd (t.reg rd) 1 s t ∧
        ∀ j < 64, (t.reg rd).getLsbD j = (decide (j < w) && (s.reg rs1).getLsbD (src (imm.toNat % w) j)))

/-- A `w`-bit instruction of format `R` always completes and writes in place `f` of its operand, wrapped (R150, R171). -/
def RWrites (mk : Reg → Instr) (op w : Nat) (f : Nat → Int) : Prop :=
  ∀ (s : State) (rd : Reg),
    EncodedAs (mk rd) [baseWord op (regNum rd) 0 0 0] ∧
      Completes (mk rd) s (WritesOnly rd (wrapTo w (f (operand w s rd))) 1 s)

/-- A `w`-bit count always completes and writes in place the number that `P` says of its operand (R150). -/
def Counts (mk : Reg → Instr) (op w : Nat) (P : Nat → Nat → Prop) : Prop :=
  ∀ (s : State) (rd : Reg),
    EncodedAs (mk rd) [baseWord op (regNum rd) 0 0 0] ∧
      ∃ r ≤ w, P (operand w s rd) r ∧ Completes (mk rd) s (WritesOnly rd (BitVec.ofNat 64 r) 1 s)

/-- A load of `n` bytes at `u(x[RS1]) + s(IMM12)`: in bounds it completes and writes `ext` of their little-endian value; out of
bounds it traps (R200, R36, R38). -/
def LoadsOrTraps (mk : Reg → Reg → BitVec 12 → Instr) (op n : Nat) (ext : Nat → Word) : Prop :=
  ∀ (s : State) (rd rs1 : Reg) (imm : BitVec 12) (ea : Int), ea = (s.reg rs1).toNat + asSigned 12 imm.toNat →
    EncodedAs (mk rd rs1 imm) [baseWord op (regNum rd) (regNum rs1) 0 imm.toNat] ∧
      (0 ≤ ea ∧ ea + n ≤ s.cfg.memSize →
        Completes (mk rd rs1 imm) s (WritesOnly rd (ext (memValue s.mem ea.toNat n)) 1 s)) ∧
      (¬ (0 ≤ ea ∧ ea + n ≤ s.cfg.memSize) → TrapsWith (mk rd rs1 imm) s (.memoryBounds ea n))

/-- A store of the low `8n` bits of `x[RS2]` at the effective address: in bounds it completes, byte `k` of the value at the
address plus `k`, every other byte and everything else as before; out of bounds it traps (R220, R37, R38). -/
def StoresOrTraps (mk : Reg → Reg → BitVec 12 → Instr) (op n : Nat) : Prop :=
  ∀ (s : State) (rs1 rs2 : Reg) (imm : BitVec 12) (ea : Int), ea = s.effectiveAddress rs1 imm →
    ea = (s.reg rs1).toNat + asSigned 12 imm.toNat ∧
      EncodedAs (mk rs1 rs2 imm) [baseWord op 0 (regNum rs1) (regNum rs2) imm.toNat] ∧
      (0 ≤ ea ∧ ea + n ≤ s.cfg.memSize →
        Completes (mk rs1 rs2 imm) s (fun t =>
          (∀ k < n, (Memory.read t.mem (ea.toNat + k)).toNat = (s.reg rs2).toNat / 256 ^ k % 256) ∧
            SameMemoryOutside ea.toNat n s t ∧ t.cmp = s.cmp ∧ KeepsButMemoryCmp [] 1 s t)) ∧
      (¬ (0 ≤ ea ∧ ea + n ≤ s.cfg.memSize) → TrapsWith (mk rs1 rs2 imm) s (.memoryBounds ea n))

/-- A `JR` of `len` words with displacement `disp` in words: taken when its condition holds of `CMP`, to the base plus
`4*disp`, else on to the next instruction; nothing but the program counter changes (R240, R241). -/
def JumpsOrFallsThrough (i : Instr) (cc : Cond) (disp : Int) (len : Nat) : Prop :=
  ∀ s : State,
    (condTable 32 cc s.cmp.toNat = true → s.cfg.jrBase = .thisInstr →
      exec i s = .next { s with pc := BitVec.ofInt 64 (s.pc.toNat + 4 * disp) }) ∧
    (condTable 32 cc s.cmp.toNat = true → s.cfg.jrBase = .nextInstr →
      exec i s = .next { s with pc := BitVec.ofInt 64 (s.pc.toNat + 4 * len + 4 * disp) }) ∧
    (condTable 32 cc s.cmp.toNat = false → Completes i s (OnlyAdvances len s))

/-- A `CALL` of `len` words to `target`: with room on the return stack it pushes the address of the next instruction and
goes to the target; with the stack full it traps (R244). -/
def CallsOrTraps (i : Instr) (target : Int) (len : Nat) : Prop :=
  ∀ s : State,
    (s.cfg.callDepth ≠ some s.rs.length →
      exec i s = .next { s with pc := BitVec.ofInt 64 target, rs := BitVec.ofNat 64 (s.pc.toNat + 4 * len) :: s.rs }) ∧
    (s.cfg.callDepth = some s.rs.length → TrapsWith i s .callStackOverflow)

/-- The program counter addresses a base word of the image (R42). -/
def FetchesInImage (s : State) : Prop :=
  s.pc.toNat % 4 = 0 ∧ s.cfg.progBase.toNat ≤ s.pc.toNat ∧ s.pc.toNat < s.cfg.progBase.toNat + 4 * s.prog.length

/-- The words of the image from the program counter on (R42). -/
def wordsAtPc (s : State) : List Word32 := s.prog.drop ((s.pc.toNat - s.cfg.progBase.toNat) / 4)

/-! ### Classes of instructions -/

/-- The eight divisions and remainders (R303). -/
def isDivision : Instr → Bool
  | .divs .. | .divu .. | .rems .. | .remu .. | .divs64 .. | .divu64 .. | .rems64 .. | .remu64 .. => true
  | _ => false

/-- The two signed divisions (R304). -/
def isSignedDivision : Instr → Bool
  | .divs .. | .divs64 .. => true
  | _ => false

/-- The twelve loads (R200). -/
def isLoad : Instr → Bool
  | .ld8u .. | .ld8s .. | .ld16u .. | .ld16s .. | .ld32 .. | .ld64 .. | .ld8u64 .. | .ld8s64 .. | .ld16u64 .. | .ld16s64 ..
  | .ld32u64 .. | .ld32s64 .. => true
  | _ => false

/-- The seven stores (R220). -/
def isStore : Instr → Bool
  | .st8 .. | .st8_64 .. | .st16 .. | .st16_64 .. | .st32 .. | .st32_64 .. | .st64 .. => true
  | _ => false

/-- The two macro-ops (R82). -/
def isMacroOp : Instr → Bool
  | .ldir | .fill => true
  | _ => false

/-- The general registers a macro-op leaves unspecified (R255). -/
def macroScratch : Instr → List Reg
  | .fill => [.hl, .bc]
  | .ldir => [.hl, .de, .bc]
  | _ => []

/-- The register that holds where a macro-op's destination range begins: `HL` for `FILL`, `DE` for `LDIR` (R253, R254). -/
def macroDest : Instr → Reg
  | .fill => .hl
  | _ => .de

/-- Two states after one macro-op that agree in all R255 specifies, `CMP` and the return stack aside: not in its scratch
registers, nor, after a trap, in memory. -/
def SameButUnspecified (i : Instr) (t u : State) : Prop :=
  u.pc = t.pc ∧ u.status = t.status ∧ SameProgram t u ∧ SameRegsBut (macroScratch i) t u ∧
    (t.status = .running → SameMemory t u)

/-- `CALL` in its three lengths (R244). -/
def isCall : Instr → Bool
  | .call _ | .callX32 _ | .callX64 _ => true
  | _ => false

/-- The target of a `CALL` (R244). -/
def callTarget : Instr → Option Word
  | .call imm => some (imm12 imm)
  | .callX32 imm => some (imm32 imm)
  | .callX64 imm => some imm
  | _ => none

/-- A `JR` with a condition other than always: the only reader of `CMP` (R16). -/
def isConditionalJr : Instr → Bool
  | .jr cc _ | .jrX32 cc _ => decide (cc ≠ .al)
  | _ => false

/-- `JR` in its two lengths (R240). -/
def isJr : Instr → Bool
  | .jr .. | .jrX32 .. => true
  | _ => false

/-- `CP` in its two lengths (R192). -/
def isCp : Instr → Bool
  | .cp .. | .cpX32 .. => true
  | _ => false

/-- The destination register of a 32-bit mnemonic that reads and writes general registers only (R100, R130, R150, R171). -/
def dest32 : Instr → Option Reg
  | .add rd _ _ | .sub rd _ _ | .mul rd _ _ | .divs rd _ _ | .divu rd _ _ | .rems rd _ _ | .remu rd _ _ | .and rd _ _
  | .or rd _ _ | .xor rd _ _ => some rd
  | .sla rd _ _ | .sra rd _ _ | .srl rd _ _ | .rol rd _ _ | .ror rd _ _ => some rd
  | .clz rd | .ctz rd | .popc rd | .inc rd | .dec rd => some rd
  | .eq rd | .ne rd | .lts rd | .les rd | .gts rd | .ges rd | .ltu rd | .leu rd | .gtu rd | .geu rd => some rd
  | _ => none

/-! ### The invariant of a run -/

/-- `RS` has at most `CALL_DEPTH` entries (R18). -/
def State.stackWithin (s : State) : Bool :=
  match s.cfg.callDepth with
  | none => true
  | some d => decide (s.rs.length ≤ d)

/-- Every return address is a multiple of 4 (R245). -/
def State.stackAligned (s : State) : Bool := s.rs.all (fun a => decide (a.toNat % 4 = 0))

/-- A terminal status tells the truth about the state it stands in: `Halted` with the return stack empty (R245); a trap at
the program counter, for a cause that is still there to see (R301, R309): the fetch fault, the rejected base word, the full
return stack, the access out of bounds. -/
def State.statusTruthful (s : State) : Bool :=
  match s.status with
  | .running => true
  | .halted => s.rs.isEmpty
  | .trapped c at_ => at_ == s.pc &&
    match c with
    | .fetchFault a => a == s.pc && s.fetchFaults
    | .illegalInstruction w =>
      !s.fetchFaults && w == s.codeAtPc.headD 0#32 && (decode s.cfg.extScheme s.codeAtPc).toOption.isNone
    | .callStackOverflow => s.callStackFull
    | .memoryBounds addr n => !s.inBounds addr n
    | .divideByZero | .integerOverflow => true

/-- What holds of every state of a run: data memory is canonical, a form of the model's own (log entry 3), and inside
`0 .. MEM_SIZE-1` (R23), the return stack is within its capacity and aligned, and a terminal status is truthful. -/
def State.inv (s : State) : Bool :=
  Memory.wf s.mem && Memory.within s.cfg.memSize s.mem && s.stackWithin && s.stackAligned && s.statusTruthful

end Sys2Proof.Machine
end

