-- ==== Sys2Proof/Certificates/Slice0/Obligations.lean ====
section
/-! DEFINITION. The statements for the provers, one `def Obligations.<Name> : Prop` each; OBLIGATIONS.json lists them with the
rules they formalise. The forms they are written in are in Sys2Proof/Safety.lean. -/

open Sys2Proof Sys2Proof.Machine

/-! ### Encoding -/

/-- Decode and encode agree, on bytes as they stand on the wire: the bytes of any instruction, every operand at every value,
decode to it whatever bytes follow (R30, R51, R58 to R61, R64). -/
def Obligations.DecodeReadsBackEveryEncoding : Prop :=
  ∀ (i : Instr) (after : List Byte), decodeBytes .rs2Count (encodeBytes i ++ after) = .ok i

/-- The other direction: words the decoder accepts begin with the encoding of the instruction it reads, so no two words are
one instruction and no bit of an accepted word is dropped (R64, R75). -/
def Obligations.AcceptedWordsAreTheEncoding : Prop :=
  ∀ (ws : List Word32) (i : Instr), decode .rs2Count ws = .ok i → ∃ rest, ws = encode i ++ rest

/-- The decode procedure of R64 accepts a base word exactly when a row of the table of encodings (R53, R57, R58, R65, R70,
R76) accepts it and the row's extension words are there; the instruction is as long as the row says. -/
def Obligations.DecoderAcceptsExactlyTheTable : Prop :=
  ∀ (w : Word32) (rest : List Word32),
    (∀ i, decode .rs2Count (w :: rest) = .ok i →
      ∃ row ∈ encodingTable, row.accepts (Fields.ofWord w) = true ∧ row.words = i.len ∧ i.len ≤ rest.length + 1) ∧
    (∀ row ∈ encodingTable, row.accepts (Fields.ofWord w) = true → row.words ≤ rest.length + 1 →
      ∃ i, decode .rs2Count (w :: rest) = .ok i ∧ i.len = row.words)

/-- R72: the reserved opcode values are exactly these ranges, 171 values, and a word with one is rejected. -/
def Obligations.ReservedOpcodesAreRejected : Prop :=
  (∀ (w : Word32) (rest : List Word32),
    decode .rs2Count (w :: rest) = .error .reservedOpcode ↔ reservedOpcode (opcodeByte w) = true) ∧
  (∀ n < 256, reservedOpcode n = false ↔ ∃ op : Opcode, op.code.toNat = n) ∧
  ((List.range 256).filter reservedOpcode).length = 171

/-- R65: in an accepted word every field its format uses as a register index is at most 4; the condition field of format
`J` is at most 10, and the extension-word count of formats `J` and `IMM` is at most 2. -/
def Obligations.RegisterFieldsAreChecked : Prop :=
  ∀ (w : Word32) (rest : List Word32) (i : Instr) (op : Opcode),
    decode .rs2Count (w :: rest) = .ok i → op.code = (Fields.ofWord w).op →
      (op.format = .rrr ∨ op.format = .rrrFixed ∨ op.format = .rri12 ∨ op.format = .mem ∨ op.format = .r ∨ op.format = .imm →
        (Fields.ofWord w).rd.toNat ≤ 4) ∧
      (op.format = .rrr ∨ op.format = .rrrFixed ∨ op.format = .rri12 ∨ op.format = .mem ∨ op.format = .store →
        (Fields.ofWord w).rs1.toNat ≤ 4) ∧
      (op.format = .rrr ∨ op.format = .rrrFixed ∨ op.format = .store → (Fields.ofWord w).rs2.toNat ≤ 4) ∧
      (op.format = .j → (Fields.ofWord w).rs1.toNat ≤ 10) ∧
      (op.format = .j ∨ op.format = .imm → (Fields.ofWord w).rs2.toNat ≤ 2)

/-- Words the spec writes beside their instructions, at least one from each family of instructions (files 40 to 47 of spec/),
decode to those instructions: the examples of R80, R251 (`LD DE, 2147483648`) and R244 (`CALL 0x12340`), the bytes of R30, and `EQ BC` of the
golden encodings in 95_test_vectors.md 2.1. -/
def Obligations.SpecWordsDecode : Prop :=
  decode .rs2Count [0x10013000#32] = .ok (.add .hl .de .bc) ∧
  decode .rs2Count [0x30010003#32] = .ok (.sla .hl .de 3#12) ∧
  decode .rs2Count [0x05200000#32] = .ok (.inc .a) ∧
  decode .rs2Count [0x50300000#32] = .ok (.eq .bc) ∧
  decode .rs2Count [0x75200008#32] = .ok (.ld32 .a .hl 8#12) ∧
  decode .rs2Count [0x84002008#32] = .ok (.st32 .hl .a 8#12) ∧
  decode .rs2Count [0x02020FFE#32] = .ok (.jr .ne 0xFFE#12) ∧
  decode .rs2Count [0x70102000#32, 0x80000000#32, 0x00000000#32] = .ok (.ldX64 .de 0x80000000#64) ∧
  decode .rs2Count [0x00001000#32, 0x00012340#32] = .ok (.callX32 0x12340#32) ∧
  decode .rs2Count [0x90103000#32] = .ok .ldir ∧
  decodeBytes .rs2Count [0x00#8, 0x30#8, 0x01#8, 0x10#8] = .ok (.add .hl .de .bc)

/-- The encoder's choice of form (R62): the form it picks has the value's meaning, and no form with that meaning is shorter;
`LD` writes the value, `CALL` pushes and goes to it or traps on a full stack, `CP` subtracts it, `JR` has it as its
displacement. It speaks of the form the encoder picks; every form whatever its value is the subject of
`LdWritesTheImmediate`, `CallPushesAndGoes`, `CpWritesTheDifference` and `JrJumpsOnItsCondition`. -/
def Obligations.EncoderPicksTheShortestForm : Prop :=
  (∀ (rd : Reg) (v : Word) (s : State),
    Completes (assembleLd rd v) s (WritesOnly rd v (assembleLd rd v).len s) ∧
    (∀ imm, imm12 imm = v → (assembleLd rd v).len = 1) ∧ (∀ imm, imm32 imm = v → (assembleLd rd v).len ≤ 2)) ∧
  (∀ v : Word, CallsOrTraps (assembleCall v) v.toInt (assembleCall v).len ∧
    (∀ imm, imm12 imm = v → (assembleCall v).len = 1) ∧ (∀ imm, imm32 imm = v → (assembleCall v).len ≤ 2)) ∧
  (∀ (rd : Reg) (v : Word32) (s : State),
    Completes (assembleCp rd v) s (fun t => t.cmp = lo32 (s.reg rd) - v) ∧
    (∀ imm : BitVec 12, imm.signExtend 32 = v → (assembleCp rd v).len = 1)) ∧
  (∀ (cc : Cond) (v : Word32), JumpsOrFallsThrough (assembleJr cc v) cc v.toInt (assembleJr cc v).len ∧
    (∀ imm : BitVec 12, imm.signExtend 32 = v → (assembleJr cc v).len = 1))

/-- The linear sweep of R67 accepts an image exactly when it is encodings one after another, with nothing left over. That
the empty image, the concatenation of none, is accepted is the model's choice (log entry 10). -/
def Obligations.WellFormedImageIsEncodings : Prop :=
  ∀ prog : List Word32, imageWellFormed .rs2Count prog = true ↔ ∃ is : List Instr, prog = is.flatMap encode

/-! ### The machine -/

/-- A step of a running machine whose program counter addresses a base word executes the instruction decoded there, and adds
nothing around it (R42, R64, R348). -/
def Obligations.StepRunsTheDecodedInstruction : Prop :=
  ∀ (s : State) (i : Instr), s.status = .running → FetchesInImage s →
    decode s.cfg.extScheme (wordsAtPc s) = .ok i → step s = exec i s

/-- R306: a fetch at a misaligned address or outside the image, and only that, takes `FetchFault`, the faulting address
recorded. -/
def Obligations.FetchOutsideImageFaults : Prop :=
  ∀ s : State, s.status = .running →
    (¬ FetchesInImage s → step s = .next { s with status := .trapped (.fetchFault s.pc) s.pc }) ∧
    (FetchesInImage s → ∀ t a p, step s = .next t → t.status ≠ .trapped (.fetchFault a) p)

/-- A base word the decoder rejects takes `IllegalInstruction` with the word, and no other state changes (R302, R66). -/
def Obligations.RejectedWordTraps : Prop :=
  ∀ (s : State) (w : Word32) (rest : List Word32) (r : Reject), s.status = .running → FetchesInImage s →
    wordsAtPc s = w :: rest → decode s.cfg.extScheme (w :: rest) = .error r →
      step s = .next { s with status := .trapped (.illegalInstruction w) s.pc }

/-- `Halted` and `Trapped` are terminal (R20): there is no next state. That the answer is a fault of this name is the model's
choice (log entry 8). -/
def Obligations.TerminalStatesHaveNoSuccessor : Prop :=
  (∀ s : State, s.status = .halted → step s = .fault .halted) ∧
  (∀ (s : State) (c : Trap) (p : Word), s.status = .trapped c p → step s = .fault (.trapped c))

/-- A running machine always has a next state: decoding is total and no instruction is refused (R64, R302, R352). -/
def Obligations.RunningMachineAlwaysSteps : Prop :=
  ∀ s : State, s.status = .running → ∃ t, step s = .next t

/-- The invariant holds at reset, and right after the host's set-up for any parameters, program and registers, when the
initial memory is inside data memory and canonical, a form that is the model's own choice (log entry 3). -/
def Obligations.InvariantHoldsAtStart : Prop :=
  State.reset.inv = true ∧
  ∀ (cfg : Config) (prog : List Word32) (m : Memory) (regs : Regs) (cmp : Word32),
    Memory.wf m = true → Memory.within cfg.memSize m = true → (State.start cfg prog m regs cmp).inv = true

/-- Every step keeps the invariant: memory in canonical form, which is the model's own choice of form and not the spec's (log
entry 3), and inside `0 .. MEM_SIZE-1` (R23); the return stack within its capacity and aligned (R18, R245); a terminal status
that tells the truth (R301, R345). -/
def Obligations.EveryStepKeepsTheInvariant : Prop :=
  ∀ s t : State, s.inv = true → step s = .next t → t.inv = true

/-- Instruction space and the parameters do not change during a run (R22, R27, R45). -/
def Obligations.ProgramNeverChanges : Prop :=
  ∀ s t : State, step s = .next t → SameProgram s t

/-- Traps are precise (R309): the recorded address is that of the trapping instruction, which has had no effect; the exception
is a macro-op, whose scratch registers and in-bounds bytes of the destination range may differ, and nothing else. -/
def Obligations.TrapsArePrecise : Prop :=
  ∀ (s t : State) (c : Trap) (p : Word), step s = .next t → t.status = .trapped c p →
    p = s.pc ∧ t.pc = s.pc ∧
    (t = { s with status := .trapped c s.pc } ∨
      ∃ i, s.fetch = .ok i ∧ isMacroOp i = true ∧ SameRegsBut (macroScratch i) s t ∧ t.cmp = s.cmp ∧ t.rs = s.rs ∧
        SameProgram s t ∧ ∀ a, Memory.read t.mem a ≠ Memory.read s.mem a →
          (s.reg (macroDest i)).toNat ≤ a ∧ a < (s.reg (macroDest i)).toNat + (s.reg .bc).toNat ∧ a < s.cfg.memSize)

/-- R301: the causes, their numbers, what raises each and with what `info`. -/
def Obligations.TrapCausesAreThoseOfTheTable : Prop :=
  (∀ (s t : State) (c : Trap) (p : Word), step s = .next t → t.status = .trapped c p →
    match c with
    | .illegalInstruction w => FetchesInImage s ∧ (∃ rest, wordsAtPc s = w :: rest) ∧
        ∃ r, decode s.cfg.extScheme (wordsAtPc s) = .error r
    | .divideByZero => ∃ i, s.fetch = .ok i ∧ isDivision i = true
    | .integerOverflow => ∃ i, s.fetch = .ok i ∧ isSignedDivision i = true
    | .memoryBounds addr n => (∃ i, s.fetch = .ok i ∧ (isLoad i = true ∨ isStore i = true ∨ isMacroOp i = true)) ∧
        (addr < 0 ∨ addr + n > s.cfg.memSize)
    | .fetchFault a => a = s.pc ∧ ¬ FetchesInImage s
    | .callStackOverflow => (∃ i, s.fetch = .ok i ∧ isCall i = true) ∧ s.cfg.callDepth = some s.rs.length) ∧
  (∀ (w : Word32) (addr : Int) (n : Nat) (a : Word),
    (Trap.illegalInstruction w).number = 1 ∧ Trap.divideByZero.number = 2 ∧ Trap.integerOverflow.number = 3 ∧
      (Trap.memoryBounds addr n).number = 4 ∧ (Trap.fetchFault a).number = 5 ∧ Trap.callStackOverflow.number = 6)

/-- R16: `CMP` is written only by `CP` and the macro-ops, not by one that traps (R309), and read only by `JR` with a condition other than always: any other
instruction does the same whatever `CMP` holds. A macro-op does the same but for what R255 leaves unspecified, of whose values
nothing is said. -/
def Obligations.CompareRegisterIsForCpAndJr : Prop :=
  (∀ (i : Instr) (s t : State), exec i s = .next t → t.cmp ≠ s.cmp →
    isCp i = true ∨ isMacroOp i = true ∧ t.status = s.status) ∧
  (∀ (i : Instr) (s t : State) (v : Word32), isConditionalJr i = false → isMacroOp i = false → exec i s = .next t →
    exec i { s with cmp := v } = .next (if isCp i = true then t else { t with cmp := v })) ∧
  (∀ (i : Instr) (s t : State) (v : Word32), isMacroOp i = true → s.status = .running → exec i s = .next t →
    Completes i { s with cmp := v } (fun u => SameButUnspecified i t u ∧ u.rs = t.rs ∧ (t.status ≠ .running → u.cmp = v)))

/-- Only `CALL` and `RET` read or write the return stack (R18): a `CALL` with room pushes the address of the next instruction,
one with the stack full leaves it, `RET` removes the top entry, and any other instruction leaves the stack and does the same
whatever it holds. A macro-op does the same but for what R255 leaves unspecified, of whose values nothing is said. -/
def Obligations.ReturnStackIsForCallAndRet : Prop :=
  (∀ (i : Instr) (s t : State), exec i s = .next t → isCall i = true →
    (s.cfg.callDepth ≠ some s.rs.length → t.rs = BitVec.ofNat 64 (s.pc.toNat + 4 * i.len) :: s.rs) ∧
    (s.cfg.callDepth = some s.rs.length → t.rs = s.rs)) ∧
  (∀ s t : State, exec .ret s = .next t → t.rs = s.rs.tail) ∧
  (∀ (i : Instr) (s t : State) (rs : List Word), isCall i = false → i ≠ .ret → isMacroOp i = false → exec i s = .next t →
    t.rs = s.rs ∧ exec i { s with rs := rs } = .next { t with rs := rs }) ∧
  (∀ (i : Instr) (s t : State) (rs : List Word), isMacroOp i = true → s.status = .running → exec i s = .next t →
    t.rs = s.rs ∧ Completes i { s with rs := rs } (fun u => SameButUnspecified i t u ∧ u.rs = rs ∧ (t.status ≠ .running → u.cmp = t.cmp)))

/-- Only stores and the macro-ops change data memory, and only bytes inside it (R23, R40, R45). -/
def Obligations.OnlyStoresChangeMemory : Prop :=
  ∀ (i : Instr) (s t : State) (a : Nat), exec i s = .next t → Memory.read t.mem a ≠ Memory.read s.mem a →
    (isStore i = true ∨ isMacroOp i = true) ∧ a < s.cfg.memSize

/-- An instruction other than `JR`, `CALL` and `RET` that does not trap ends at the next instruction, modulo `2^64` (R15,
R246). -/
def Obligations.ProgramCounterAdvances : Prop :=
  ∀ (i : Instr) (s t : State), s.status = .running → exec i s = .next t → t.status = .running →
    isJr i = false → isCall i = false → i ≠ .ret → AdvancedBy i.len s t

/-- Instruction alignment (R35, R240, R245): from an aligned program counter and an aligned return stack, a step leaves the
program counter aligned unless it runs a `CALL` whose target is not a multiple of 4. -/
def Obligations.AlignmentIsLostOnlyByCall : Prop :=
  ∀ s t : State, s.pc.toNat % 4 = 0 → s.stackAligned = true → step s = .next t →
    (∀ i v, s.fetch = .ok i → callTarget i = some v → v.toNat % 4 = 0) →
      t.pc.toNat % 4 = 0 ∧ t.stackAligned = true

/-- The width rule (R100) as non-interference: a 32-bit mnemonic does the same from two states that agree but for the upper
halves of general registers, its destination is the same all 64 bits and below `2^32`, and no other register is touched. -/
def Obligations.UpperHalvesDoNotMatterIn32Bits : Prop :=
  ∀ (i : Instr) (rd : Reg) (s t : State) (regs : Regs), dest32 i = some rd → s.status = .running →
    (∀ r, (regs.get r).toNat % 2 ^ 32 = (s.reg r).toNat % 2 ^ 32) → exec i s = .next t →
      ∃ regs', exec i { s with regs := regs } = .next { t with regs := regs' } ∧
        (∀ r, r ≠ rd → regs'.get r = regs.get r ∧ t.reg r = s.reg r) ∧
        (t.status = .running → regs'.get rd = t.reg rd ∧ (t.reg rd).toNat < 2 ^ 32)

/-- A `CALL` and then a `RET` from the state it leads to: the machine is at the instruction after the `CALL`, the stack and
everything else as before the `CALL` (R243 to R245). -/
def Obligations.RetUndoesCall : Prop :=
  ∀ (i : Instr) (s t : State), isCall i = true → s.cfg.callDepth ≠ some s.rs.length → exec i s = .next t →
    ∃ u, exec .ret t = .next u ∧ OnlyAdvances i.len s u

/-- R341, R342: reset puts `pc` at `ENTRY`, by default `PROG_BASE`, with the return stack empty; a bad `ENTRY` makes the first
step raise `FetchFault`; the first `RET` halts. -/
def Obligations.ResetStartsAtEntryWithEmptyStack : Prop :=
  ∀ (cfg : Config) (prog : List Word32) (m : Memory) (regs : Regs) (cmp : Word32),
    (State.start cfg prog m regs cmp).pc = cfg.entry ∧
    (State.start cfg prog m regs cmp).rs = [] ∧
    (∀ base : Word, ({ progBase := base } : Config).entry = base) ∧
    (cfg.entry.toNat % 4 ≠ 0 ∨ cfg.entry.toNat < cfg.progBase.toNat ∨
        cfg.progBase.toNat + 4 * prog.length ≤ cfg.entry.toNat →
      ∃ t, step (State.start cfg prog m regs cmp) = .next t ∧ t.status = .trapped (.fetchFault cfg.entry) cfg.entry) ∧
    (∃ t, exec .ret (State.start cfg prog m regs cmp) = .next t ∧ t.status = .halted)

/-! ### Arithmetic and logic -/

/-- `ADD`, `SUB`, `MUL` and the 64-bit forms wrap; the 32-bit ones zero-extend (R102 to R104, R112 to R114). -/
def Obligations.SumsDifferencesProductsWrap : Prop :=
  RRRWrites .add 0x10 32 (fun a b => a + b) ∧ RRRWrites .sub 0x11 32 (fun a b => a - b) ∧
  RRRWrites .mul 0x12 32 (fun a b => a * b) ∧ RRRWrites .add64 0x20 64 (fun a b => a + b) ∧
  RRRWrites .sub64 0x21 64 (fun a b => a - b) ∧ RRRWrites .mul64 0x22 64 (fun a b => a * b)

/-- `INC` and `DEC` step the low 32 bits by one, wrap and zero-extend (R157, R158). That the amount is one is the spec's own
inference: "That the amount is one is the conventional meaning of the mnemonic". -/
def Obligations.IncDecStepByOne : Prop :=
  RWrites .inc 0x05 32 (fun a => a + 1) ∧ RWrites .dec 0x06 32 (fun a => a - 1)

/-- `AND`, `OR`, `XOR` and the 64-bit forms, bit by bit (R109 to R111, R119 to R121). -/
def Obligations.LogicIsBitByBit : Prop :=
  RRRBitwise .and 0x17 32 (fun a b => a && b) ∧ RRRBitwise .or 0x18 32 (fun a b => a || b) ∧
  RRRBitwise .xor 0x19 32 (fun a b => a ^^ b) ∧ RRRBitwise .and64 0x27 64 (fun a b => a && b) ∧
  RRRBitwise .or64 0x28 64 (fun a b => a || b) ∧ RRRBitwise .xor64 0x29 64 (fun a b => a ^^ b)

/-- `DIVU`, `REMU` and the 64-bit forms: the floor quotient and its remainder, or `DivideByZero` (R106, R108, R116, R118). -/
def Obligations.UnsignedDivision : Prop :=
  DividesOrTraps .divu 0x14 32 (fun _ _ => false) (fun a b => (a / b : Nat)) ∧
  DividesOrTraps .remu 0x16 32 (fun _ _ => false) (fun a b => (a % b : Nat)) ∧
  DividesOrTraps .divu64 0x24 64 (fun _ _ => false) (fun a b => (a / b : Nat)) ∧
  DividesOrTraps .remu64 0x26 64 (fun _ _ => false) (fun a b => (a % b : Nat))

/-- `DIVS`, `DIVS64`: the quotient truncated toward zero, or `DivideByZero`, or `IntegerOverflow` at the one quotient that does
not fit (R105, R115). -/
def Obligations.SignedDivision : Prop :=
  DividesOrTraps .divs 0x13 32 (fun p q => decide (p = -2 ^ 31 ∧ q = -1))
    (fun a b => quotientTowardZero (asSigned 32 a) (asSigned 32 b)) ∧
  DividesOrTraps .divs64 0x23 64 (fun p q => decide (p = -2 ^ 63 ∧ q = -1))
    (fun a b => quotientTowardZero (asSigned 64 a) (asSigned 64 b))

/-- `REMS`, `REMS64`: the remainder of the truncated quotient, of the sign of the dividend, or `DivideByZero`; no overflow
(R107, R117). -/
def Obligations.SignedRemainder : Prop :=
  DividesOrTraps .rems 0x15 32 (fun _ _ => false)
    (fun a b => asSigned 32 a - asSigned 32 b * quotientTowardZero (asSigned 32 a) (asSigned 32 b)) ∧
  DividesOrTraps .rems64 0x25 64 (fun _ _ => false)
    (fun a b => asSigned 64 a - asSigned 64 b * quotientTowardZero (asSigned 64 a) (asSigned 64 b))

/-! ### Shifts, rotates, counts -/

/-- `SLA`, `SRA`, `SRL` and the 64-bit forms, as products and floor quotients by powers of two (R132 to R134, R137 to R139). -/
def Obligations.ShiftsAreProductsAndQuotients : Prop :=
  RRIWrites .sla 0x30 32 (fun a n => a * 2 ^ n) ∧ RRIWrites .sra 0x31 32 (fun a n => asSigned 32 a / 2 ^ n) ∧
  RRIWrites .srl 0x32 32 (fun a n => (a / 2 ^ n : Nat)) ∧ RRIWrites .sla64 0x40 64 (fun a n => a * 2 ^ n) ∧
  RRIWrites .sra64 0x41 64 (fun a n => asSigned 64 a / 2 ^ n) ∧ RRIWrites .srl64 0x42 64 (fun a n => (a / 2 ^ n : Nat))

/-- `ROL`, `ROR` and the 64-bit forms, by where each bit of the result comes from (R135, R136, R140, R141). -/
def Obligations.RotatesMoveEveryBit : Prop :=
  Rotates .rol 0x33 32 (fun n j => (j + 32 - n) % 32) ∧ Rotates .ror 0x34 32 (fun n j => (j + n) % 32) ∧
  Rotates .rol64 0x43 64 (fun n j => (j + 64 - n) % 64) ∧ Rotates .ror64 0x44 64 (fun n j => (j + n) % 64)

/-- `CLZ`, `CTZ`, `POPC` and the 64-bit forms, each by what its count says of the operand, the width at zero for the first
two (R151 to R156). The count of zero is the spec's own inference: "The result 32 for a zero operand is WebAssembly's". -/
def Obligations.CountsOfBits : Prop :=
  Counts .clz 0x35 32 (fun a r => a = 0 ∧ r = 32 ∨ r < 32 ∧ 2 ^ (31 - r) ≤ a ∧ a < 2 ^ (32 - r)) ∧
  Counts .ctz 0x36 32 (fun a r => a = 0 ∧ r = 32 ∨ r < 32 ∧ a % 2 ^ r = 0 ∧ a / 2 ^ r % 2 = 1) ∧
  Counts .popc 0x37 32 (fun a r => r = ((List.range 32).filter (fun k => a.testBit k)).length) ∧
  Counts .clz64 0x45 64 (fun a r => a = 0 ∧ r = 64 ∨ r < 64 ∧ 2 ^ (63 - r) ≤ a ∧ a < 2 ^ (64 - r)) ∧
  Counts .ctz64 0x46 64 (fun a r => a = 0 ∧ r = 64 ∨ r < 64 ∧ a % 2 ^ r = 0 ∧ a / 2 ^ r % 2 = 1) ∧
  Counts .popc64 0x47 64 (fun a r => r = ((List.range 64).filter (fun k => a.testBit k)).length)

/-! ### Compare/set and CP -/

/-- `EQ` to `GEU`: 1 or 0 as the low 32 bits compare with zero (R172 to R181). -/
def Obligations.CompareSetTestsLowHalf : Prop :=
  RWrites .eq 0x50 32 (fun v => if v = 0 then 1 else 0) ∧ RWrites .ne 0x51 32 (fun v => if v ≠ 0 then 1 else 0) ∧
  RWrites .lts 0x52 32 (fun v => if asSigned 32 v < 0 then 1 else 0) ∧
  RWrites .les 0x53 32 (fun v => if asSigned 32 v ≤ 0 then 1 else 0) ∧
  RWrites .gts 0x54 32 (fun v => if asSigned 32 v > 0 then 1 else 0) ∧
  RWrites .ges 0x55 32 (fun v => if asSigned 32 v ≥ 0 then 1 else 0) ∧
  RWrites .ltu 0x56 32 (fun _ => 0) ∧ RWrites .leu 0x57 32 (fun v => if v = 0 then 1 else 0) ∧
  RWrites .gtu 0x58 32 (fun v => if v ≠ 0 then 1 else 0) ∧ RWrites .geu 0x59 32 (fun _ => 1)

/-- `EQ64` to `GEU64`: 1 or 0 as the 64-bit value compares with zero (R182 to R191). -/
def Obligations.CompareSetTestsAllBits : Prop :=
  RWrites .eq64 0x60 64 (fun v => if v = 0 then 1 else 0) ∧ RWrites .ne64 0x61 64 (fun v => if v ≠ 0 then 1 else 0) ∧
  RWrites .lts64 0x62 64 (fun v => if asSigned 64 v < 0 then 1 else 0) ∧
  RWrites .les64 0x63 64 (fun v => if asSigned 64 v ≤ 0 then 1 else 0) ∧
  RWrites .gts64 0x64 64 (fun v => if asSigned 64 v > 0 then 1 else 0) ∧
  RWrites .ges64 0x65 64 (fun v => if asSigned 64 v ≥ 0 then 1 else 0) ∧
  RWrites .ltu64 0x66 64 (fun _ => 0) ∧ RWrites .leu64 0x67 64 (fun v => if v = 0 then 1 else 0) ∧
  RWrites .gtu64 0x68 64 (fun v => if v ≠ 0 then 1 else 0) ∧ RWrites .geu64 0x69 64 (fun _ => 1)

/-- R192: `CP` writes the wrapped 32-bit difference to `CMP` and nothing else, in both its forms; `XW = 2` is rejected. -/
def Obligations.CpWritesTheDifference : Prop :=
  (∀ (s : State) (rd : Reg) (imm : BitVec 12),
    EncodedAs (.cp rd imm) [baseWord 0x03 (regNum rd) 0 0 imm.toNat] ∧
    Completes (.cp rd imm) s (fun t => t.cmp = BitVec.ofInt 32 (operand 32 s rd - asSigned 12 imm.toNat) ∧
      SameMemory s t ∧ KeepsButMemoryCmp [] 1 s t)) ∧
  (∀ (s : State) (rd : Reg) (imm : Word32),
    EncodedAs (.cpX32 rd imm) [baseWord 0x03 (regNum rd) 0 1 0, imm] ∧
    Completes (.cpX32 rd imm) s (fun t => t.cmp = BitVec.ofInt 32 (operand 32 s rd - asSigned 32 imm.toNat) ∧
      SameMemory s t ∧ KeepsButMemoryCmp [] 2 s t)) ∧
  (∀ rd imm, rd < 16 → imm < 4096 → Rejected (baseWord 0x03 rd 0 2 imm))

/-! ### Loads and stores -/

/-- `MemRead` and `MemWrite` (R36, R37): the bounds test first; then all the bytes, little-endian. -/
def Obligations.MemoryPrimitives : Prop :=
  (∀ (s : State) (addr : Int) (n : Nat), addr < 0 ∨ addr + n > s.cfg.memSize →
    s.memRead addr n = .error (.memoryBounds addr n) ∧ ∀ v, s.memWrite addr n v = .error (.memoryBounds addr n)) ∧
  (∀ (s : State) (addr : Int) (n : Nat), 0 ≤ addr → addr + n ≤ s.cfg.memSize →
    (∃ v, s.memRead addr n = .ok v ∧ ∀ k < n, v.extractLsb' (8 * k) 8 = Memory.read s.mem (addr.toNat + k)) ∧
    ∀ v, ∃ t, s.memWrite addr n v = .ok t ∧ t = { s with mem := t.mem } ∧
      (∀ k < n, Memory.read t.mem (addr.toNat + k) = v.extractLsb' (8 * k) 8) ∧ SameMemoryOutside addr.toNat n s t)

/-- A narrow load after a wide store sees the corresponding bytes of the stored value: what R33 derives from R31, R36 and
R37. -/
def Obligations.NarrowLoadSeesTheWideStore : Prop :=
  ∀ (s t : State) (a : Int) (v : Word), s.memWrite a 8 v = .ok t →
    (∀ k : Nat, k ≤ 7 → t.memRead (a + k) 1 = .ok (v.extractLsb' (8 * k) 8)) ∧
    t.memRead a 4 = .ok (v.extractLsb' 0 32) ∧ t.memRead (a + 4) 4 = .ok (v.extractLsb' 32 32)

/-- The zero-extending loads and `LD64` (R202, R204, R206 to R208, R210, R212). -/
def Obligations.ZeroExtendingLoads : Prop :=
  LoadsOrTraps .ld8u 0x71 1 (fun v => wrapTo 64 v) ∧ LoadsOrTraps .ld16u 0x73 2 (fun v => wrapTo 64 v) ∧
  LoadsOrTraps .ld32 0x75 4 (fun v => wrapTo 64 v) ∧ LoadsOrTraps .ld64 0x76 8 (fun v => wrapTo 64 v) ∧
  LoadsOrTraps .ld8u64 0x77 1 (fun v => wrapTo 64 v) ∧ LoadsOrTraps .ld16u64 0x79 2 (fun v => wrapTo 64 v) ∧
  LoadsOrTraps .ld32u64 0x7B 4 (fun v => wrapTo 64 v)

/-- The sign-extending loads: `LD8S`, `LD16S` to 32 bits and then zero-extended, the `64` forms to 64 bits (R203, R205, R209,
R211, R213). -/
def Obligations.SignExtendingLoads : Prop :=
  LoadsOrTraps .ld8s 0x72 1 (fun v => wrapTo 32 (asSigned 8 v)) ∧
  LoadsOrTraps .ld16s 0x74 2 (fun v => wrapTo 32 (asSigned 16 v)) ∧
  LoadsOrTraps .ld8s64 0x78 1 (fun v => wrapTo 64 (asSigned 8 v)) ∧
  LoadsOrTraps .ld16s64 0x7A 2 (fun v => wrapTo 64 (asSigned 16 v)) ∧
  LoadsOrTraps .ld32s64 0x7C 4 (fun v => wrapTo 64 (asSigned 32 v))

/-- The seven stores (R222 to R228). -/
def Obligations.StoresWriteTheirBytes : Prop :=
  StoresOrTraps .st8 0x80 1 ∧ StoresOrTraps .st8_64 0x81 1 ∧ StoresOrTraps .st16 0x82 2 ∧ StoresOrTraps .st16_64 0x83 2 ∧
  StoresOrTraps .st32 0x84 4 ∧ StoresOrTraps .st32_64 0x85 4 ∧ StoresOrTraps .st64 0x86 8

/-- The two forms of each narrow store and of each unsigned load do the same in every state: what R221 derives from R100 and
R220, and R206 says of `LD32`. -/
def Obligations.TwinFormsAgree : Prop :=
  ∀ (r1 r2 : Reg) (imm : BitVec 12) (s : State),
    exec (.st8 r1 r2 imm) s = exec (.st8_64 r1 r2 imm) s ∧ exec (.st16 r1 r2 imm) s = exec (.st16_64 r1 r2 imm) s ∧
    exec (.st32 r1 r2 imm) s = exec (.st32_64 r1 r2 imm) s ∧ exec (.ld8u r1 r2 imm) s = exec (.ld8u64 r1 r2 imm) s ∧
    exec (.ld16u r1 r2 imm) s = exec (.ld16u64 r1 r2 imm) s ∧ exec (.ld32 r1 r2 imm) s = exec (.ld32u64 r1 r2 imm) s

/-! ### Control flow -/

/-- R240 to R242: `JR` in its two lengths, for every condition and both bases; a reserved condition, `XW` of 2 or more, a
nonzero `RD` and a header with a nonzero `IMM12` are rejected. -/
def Obligations.JrJumpsOnItsCondition : Prop :=
  (∀ (cc : Cond) (imm : BitVec 12), EncodedAs (.jr cc imm) [baseWord 0x02 0 (condNum cc) 0 imm.toNat] ∧
    JumpsOrFallsThrough (.jr cc imm) cc (asSigned 12 imm.toNat) 1) ∧
  (∀ (cc : Cond) (imm : Word32), EncodedAs (.jrX32 cc imm) [baseWord 0x02 0 (condNum cc) 1 0, imm] ∧
    JumpsOrFallsThrough (.jrX32 cc imm) cc (asSigned 32 imm.toNat) 2) ∧
  (∀ rd cc xw imm, rd < 16 → cc < 16 → xw < 16 → imm < 4096 → rd ≠ 0 ∨ 10 < cc ∨ 2 ≤ xw ∨ (xw = 1 ∧ imm ≠ 0) →
    Rejected (baseWord 0x02 rd cc xw imm))

/-- R244: `CALL` in its three lengths; a nonzero `RD` or `RS1` is rejected. -/
def Obligations.CallPushesAndGoes : Prop :=
  (∀ imm : BitVec 12, EncodedAs (.call imm) [baseWord 0x00 0 0 0 imm.toNat] ∧
    CallsOrTraps (.call imm) (asSigned 12 imm.toNat) 1) ∧
  (∀ imm : Word32, EncodedAs (.callX32 imm) [baseWord 0x00 0 0 1 0, imm] ∧
    CallsOrTraps (.callX32 imm) (asSigned 32 imm.toNat) 2) ∧
  (∀ w1 w2 : Word32, EncodedAs (.callX64 (w2 ++ w1)) [baseWord 0x00 0 0 2 0, w1, w2] ∧
    CallsOrTraps (.callX64 (w2 ++ w1)) (w2.toNat * 2 ^ 32 + w1.toNat) 3) ∧
  (∀ rd rs1 xw imm, rd < 16 → rs1 < 16 → xw < 16 → imm < 4096 → rd ≠ 0 ∨ rs1 ≠ 0 → Rejected (baseWord 0x00 rd rs1 xw imm))

/-- R245: `RET` pops and goes there, or with the stack empty halts where it stands; and nothing else halts the machine. -/
def Obligations.RetReturnsOrHalts : Prop :=
  EncodedAs .ret [0x01000000#32] ∧
  (∀ (s : State) (a : Word) (rest : List Word), s.rs = a :: rest → exec .ret s = .next { s with pc := a, rs := rest }) ∧
  (∀ s : State, s.rs = [] → exec .ret s = .next { s with status := .halted }) ∧
  (∀ s t : State, step s = .next t → t.status = .halted →
    s.fetch = .ok .ret ∧ s.rs = [] ∧ t = { s with status := .halted }) ∧
  (∀ w : Word32, opcodeByte w = 0x01 → w ≠ 0x01000000#32 → Rejected w)

/-! ### LD, DROP and the macro-ops -/

/-- R251: `LD` writes all 64 bits of its immediate, in its three lengths. -/
def Obligations.LdWritesTheImmediate : Prop :=
  (∀ (s : State) (rd : Reg) (imm : BitVec 12), EncodedAs (.ld rd imm) [baseWord 0x70 (regNum rd) 0 0 imm.toNat] ∧
    Completes (.ld rd imm) s (WritesOnly rd (BitVec.ofInt 64 (asSigned 12 imm.toNat)) 1 s)) ∧
  (∀ (s : State) (rd : Reg) (imm : Word32), EncodedAs (.ldX32 rd imm) [baseWord 0x70 (regNum rd) 0 1 0, imm] ∧
    Completes (.ldX32 rd imm) s (WritesOnly rd (BitVec.ofInt 64 (asSigned 32 imm.toNat)) 2 s)) ∧
  (∀ (s : State) (rd : Reg) (w1 w2 : Word32),
    EncodedAs (.ldX64 rd (w2 ++ w1)) [baseWord 0x70 (regNum rd) 0 2 0, w1, w2] ∧
    Completes (.ldX64 rd (w2 ++ w1)) s (WritesOnly rd (BitVec.ofNat 64 (w2.toNat * 2 ^ 32 + w1.toNat)) 3 s))

/-- The idioms of R84, which the spec derives: `OR64 rd, rs, rs` copies, `OR rd, rs, rs` copies the low half, `LD rd, 0` clears;
a constant is added by two instructions, for any temporary but the source. -/
def Obligations.IdiomsDoAsWanted : Prop :=
  (∀ (rd rs : Reg) (s : State), Completes (idiomCopy rd rs) s (WritesOnly rd (s.reg rs) 1 s)) ∧
  (∀ (rd rs : Reg) (s : State),
    Completes (idiomCopyLow rd rs) s (WritesOnly rd (BitVec.ofNat 64 ((s.reg rs).toNat % 2 ^ 32)) 1 s)) ∧
  (∀ (rd : Reg) (s : State), Completes (idiomClear rd) s (WritesOnly rd 0#64 1 s)) ∧
  (∀ (rd rs tmp : Reg) (v : Word) (s : State), tmp ≠ rs →
    ∃ i j t u, idiomAddConst rd rs tmp v = [i, j] ∧ exec i s = .next t ∧ exec j t = .next u ∧
      u.reg rd = s.reg rs + v ∧ SameRegsBut [rd, tmp] s u ∧ SameMemory s u ∧ u.cmp = s.cmp ∧ u.rs = s.rs ∧
      AdvancedBy (i.len + j.len) s u)

/-- R252: `DROP` changes nothing but the program counter; every other word of its opcode is rejected. -/
def Obligations.DropOnlyAdvances : Prop :=
  EncodedAs .drop [0x04000000#32] ∧ (∀ s : State, Completes .drop s (OnlyAdvances 1 s)) ∧
  (∀ w : Word32, opcodeByte w = 0x04 → w ≠ 0x04000000#32 → Rejected w)

/-- `FILL` where its range fits (R253, R255): the range holds the low byte of `A`, every other byte is as before; `HL`, `BC`
and `CMP` may hold anything; every other word of its opcode is rejected. That it completes also with a non-zero upper half of
`BC`, where `MEM_SIZE` is `2^32` or more and the range fits, is the model's choice (log entry 16). -/
def Obligations.FillFillsTheRange : Prop :=
  EncodedAs .fill [0x91023000#32] ∧
  (∀ (s : State) (d n : Nat), d = (s.reg .hl).toNat → n = (s.reg .bc).toNat → d + n ≤ s.cfg.memSize →
    Completes .fill s (fun t =>
      (∀ a, d ≤ a ∧ a < d + n → (Memory.read t.mem a).toNat = (s.reg .a).toNat % 256) ∧ SameMemoryOutside d n s t ∧
        KeepsButMemoryCmp [.hl, .bc] 1 s t)) ∧
  (∀ w : Word32, opcodeByte w = 0x91 → w ≠ 0x91023000#32 → Rejected w)

/-- `LDIR` where both ranges fit (R254, R255): without upward overlap the destination holds the source's old bytes, with it a
repetition of the first `DE - HL` of them; every other byte is as before; `HL`, `DE`, `BC` and `CMP` may hold anything. -/
def Obligations.LdirCopiesUpwards : Prop :=
  EncodedAs .ldir [0x90103000#32] ∧
  (∀ (s : State) (src d n : Nat), src = (s.reg .hl).toNat → d = (s.reg .de).toNat → n = (s.reg .bc).toNat →
    src + n ≤ s.cfg.memSize → d + n ≤ s.cfg.memSize →
    Completes .ldir s (fun t =>
      (∀ k < n, Memory.read t.mem (d + k) =
        Memory.read s.mem (if src < d ∧ d < src + n then src + k % (d - src) else src + k)) ∧
        SameMemoryOutside d n s t ∧ KeepsButMemoryCmp [.hl, .de, .bc] 1 s t)) ∧
  (∀ w : Word32, opcodeByte w = 0x90 → w ≠ 0x90103000#32 → Rejected w)

/-- The macro-ops out of bounds (R253 to R255, R308): `MemoryBounds` of the range that does not fit, the source range of
`LDIR` first; only the in-bounds bytes of the destination range and the scratch registers may differ: `CMP` and everything
else are as before (R309). -/
def Obligations.MacroOpsTrapOutOfBounds : Prop :=
  (∀ (s : State) (d n : Nat), d = (s.reg .hl).toNat → n = (s.reg .bc).toNat → s.cfg.memSize < d + n →
    Completes .fill s (fun t => t.status = .trapped (.memoryBounds d n) s.pc ∧ t.pc = s.pc ∧ t.cmp = s.cmp ∧ t.rs = s.rs ∧
      SameProgram s t ∧ SameRegsBut [.hl, .bc] s t ∧
      ∀ a, ¬ (d ≤ a ∧ a < d + n ∧ a < s.cfg.memSize) → Memory.read t.mem a = Memory.read s.mem a)) ∧
  (∀ (s : State) (src d n : Nat), src = (s.reg .hl).toNat → d = (s.reg .de).toNat → n = (s.reg .bc).toNat →
    s.cfg.memSize < src + n ∨ s.cfg.memSize < d + n →
    Completes .ldir s (fun t =>
      t.status = .trapped (.memoryBounds (if s.cfg.memSize < src + n then src else d) n) s.pc ∧ t.pc = s.pc ∧
        t.cmp = s.cmp ∧ t.rs = s.rs ∧ SameProgram s t ∧ SameRegsBut [.hl, .de, .bc] s t ∧
        ∀ a, ¬ (d ≤ a ∧ a < d + n ∧ a < s.cfg.memSize) → Memory.read t.mem a = Memory.read s.mem a))
end

