-- ==== Sys2Proof/Laws/Decode.lean ====
section
/-! SUPPORT. The small laws of the decoder and the encoder: the code tables and their inverses, a base word and its fields,
words and their bytes on the wire, and the length of an encoding. -/

namespace Sys2Proof

/-! ### The code tables -/

@[simp] theorem Reg.ofIndex_index (r : Reg) : Reg.ofIndex r.index = some r := by cases r <;> rfl

theorem Reg.index_of_ofIndex {v : BitVec 4} {r : Reg} (h : Reg.ofIndex v = some r) : r.index = v := by
  revert r; revert v; decide

theorem Reg.ofIndex_isSome (v : BitVec 4) : (Reg.ofIndex v).isSome = decide (v.toNat ≤ 4) := by revert v; decide

theorem Reg.index_toNat_le (r : Reg) : r.index.toNat ≤ 4 := by cases r <;> decide

@[simp] theorem isRegister_index (r : Reg) : isRegister r.index = true := by cases r <;> rfl

@[simp] theorem isRegister_zero : isRegister 0#4 = true := rfl

/-- R65 as the table of encodings has it: legal register fields hold 0 to 4. -/
theorem isRegister_eq (v : BitVec 4) : isRegister v = decide (v.toNat ≤ 4) := Reg.ofIndex_isSome v

@[simp] theorem Cond.ofCode_code (c : Cond) : Cond.ofCode c.code = some c := by cases c <;> rfl

theorem Cond.code_of_ofCode {v : BitVec 4} {c : Cond} (h : Cond.ofCode v = some c) : c.code = v := by
  revert c; revert v; decide

theorem Cond.ofCode_isSome (v : BitVec 4) : (Cond.ofCode v).isSome = decide (v.toNat ≤ 10) := by revert v; decide

theorem Cond.code_toNat_le (c : Cond) : c.code.toNat ≤ 10 := by cases c <;> decide

@[simp] theorem Opcode.ofCode_code (op : Opcode) : Opcode.ofCode op.code = some op := by cases op <;> rfl

theorem Opcode.code_of_ofCode {v : BitVec 8} {op : Opcode} (h : Opcode.ofCode v = some op) : op.code = v := by
  have key : ∀ v : BitVec 8, (Opcode.ofCode v).all (fun op => op.code == v) = true := by decide
  have := key v
  rw [h] at this
  simpa using this

/-! ### A base word and its fields -/

/-- The number of a concatenation: the high part counts `2^m` times. -/
theorem toNat_append_mul {n m : Nat} (a : BitVec n) (b : BitVec m) : (a ++ b).toNat = a.toNat * 2 ^ m + b.toNat := by
  rw [BitVec.toNat_append, ← Nat.shiftLeft_add_eq_or_of_lt b.isLt, Nat.shiftLeft_eq]

/-- R51 as a formula: `OPCODE<<24 | RD<<20 | RS1<<16 | RS2<<12 | IMM12`. -/
theorem Fields.toWord_toNat (f : Fields) : f.toWord.toNat =
    f.op.toNat * 2 ^ 24 + f.rd.toNat * 2 ^ 20 + f.rs1.toNat * 2 ^ 16 + f.rs2.toNat * 2 ^ 12 + f.imm.toNat := by
  simp only [Fields.toWord, toNat_append_mul]
  omega

@[simp] theorem Fields.ofWord_toWord (f : Fields) : Fields.ofWord f.toWord = f := by
  have h := f.toWord_toNat
  obtain ⟨op, rd, rs1, rs2, imm⟩ := f
  simp only [Fields.ofWord, Fields.mk.injEq]
  have h1 := op.isLt
  have h2 := rd.isLt
  have h3 := rs1.isLt
  have h4 := rs2.isLt
  have h5 := imm.isLt
  refine ⟨?_, ?_, ?_, ?_, ?_⟩ <;> apply BitVec.eq_of_toNat_eq <;>
    simp only [BitVec.extractLsb'_toNat, Nat.shiftRight_eq_div_pow, h] <;> omega

@[simp] theorem Fields.toWord_ofWord (w : Word32) : (Fields.ofWord w).toWord = w := by
  apply BitVec.eq_of_toNat_eq
  have h := w.isLt
  simp only [Fields.toWord_toNat, Fields.ofWord, BitVec.extractLsb'_toNat, Nat.shiftRight_eq_div_pow]
  omega

/-- The opcode field of a word is its top byte. -/
theorem Fields.ofWord_op_toNat (w : Word32) : (Fields.ofWord w).op.toNat = w.toNat / 2 ^ 24 := by
  have h := w.isLt
  simp only [Fields.ofWord, BitVec.extractLsb'_toNat, Nat.shiftRight_eq_div_pow]
  omega

/-! ### Words on the wire -/

@[simp] theorem wireBytes_length (w : Word32) : (wireBytes w).length = 4 := rfl

/-- A word is the word of its four bytes. -/
@[simp] theorem wireWord_extract (w : Word32) :
    wireWord (w.extractLsb' 0 8) (w.extractLsb' 8 8) (w.extractLsb' 16 8) (w.extractLsb' 24 8) = w := by
  apply BitVec.eq_of_toNat_eq
  have h := w.isLt
  simp only [wireWord, toNat_append_mul, BitVec.extractLsb'_toNat, Nat.shiftRight_eq_div_pow]
  omega

@[simp] theorem wordsOfBytes_wireBytes_append (w : Word32) (bs : List Byte) :
    wordsOfBytes (wireBytes w ++ bs) = w :: wordsOfBytes bs := by
  simp [wireBytes, wordsOfBytes]

/-- The words of a byte image of words, whatever bytes follow. -/
theorem wordsOfBytes_append (ws : List Word32) (bs : List Byte) :
    wordsOfBytes (bytesOfWords ws ++ bs) = ws ++ wordsOfBytes bs := by
  induction ws with
  | nil => rfl
  | cons w ws ih =>
    have : bytesOfWords (w :: ws) ++ bs = wireBytes w ++ (bytesOfWords ws ++ bs) := by simp [bytesOfWords]
    rw [this, wordsOfBytes_wireBytes_append, ih, List.cons_append]

@[simp] theorem wordsOfBytes_bytesOfWords (ws : List Word32) : wordsOfBytes (bytesOfWords ws) = ws := by
  simpa [wordsOfBytes] using wordsOfBytes_append ws []

/-! ### Extension words -/

@[simp] theorem imm64_halves (v : Word) : imm64 (v.extractLsb' 0 32) (v.extractLsb' 32 32) = v := by
  apply BitVec.eq_of_toNat_eq
  have h := v.isLt
  simp only [imm64, toNat_append_mul, BitVec.extractLsb'_toNat, Nat.shiftRight_eq_div_pow]
  omega

theorem imm64_low (w1 w2 : Word32) : (imm64 w1 w2).extractLsb' 0 32 = w1 := by
  apply BitVec.eq_of_toNat_eq
  have h1 := w1.isLt
  have h2 := w2.isLt
  simp only [imm64, toNat_append_mul, BitVec.extractLsb'_toNat, Nat.shiftRight_eq_div_pow]
  omega

theorem imm64_high (w1 w2 : Word32) : (imm64 w1 w2).extractLsb' 32 32 = w2 := by
  apply BitVec.eq_of_toNat_eq
  have h1 := w1.isLt
  have h2 := w2.isLt
  simp only [imm64, toNat_append_mul, BitVec.extractLsb'_toNat, Nat.shiftRight_eq_div_pow]
  omega

/-! ### Lengths -/

theorem Instr.len_pos (i : Instr) : 1 ≤ i.len := by cases i <;> simp [Instr.len]

theorem Instr.len_le (i : Instr) : i.len ≤ 3 := by cases i <;> simp [Instr.len]

@[simp] theorem encode_length (i : Instr) : (encode i).length = i.len := by cases i <;> rfl

/-! ### Taking the decoder apart -/

/-- The decoder on a word sequence is the decoder on its base word's fields. -/
theorem decode_cons (scheme : ExtScheme) (w : Word32) (rest : List Word32) :
    decode scheme (w :: rest) = decodeFields scheme (Fields.ofWord w) rest := rfl

/-- The decoder on the words of an instruction, whatever words follow. -/
theorem decode_encode_append (scheme : ExtScheme) (i : Instr) (rest : List Word32) :
    decode scheme (encode i ++ rest) = decodeFields scheme i.fields (i.ext ++ rest) := by
  simp [encode, decode]

/-- What an accepting decoder has found: an opcode, no nonzero unused field, legal registers, the opcode's own checks passed,
the extension words, and the instruction built of them (R64). -/
theorem decodeFields_ok {scheme : ExtScheme} {f : Fields} {rest : List Word32} {i : Instr}
    (h : decodeFields scheme f rest = .ok i) :
    ∃ op ext, Opcode.ofCode f.op = some op ∧ unusedFieldsZero op.format f = true ∧ registersLegal op.format f = true ∧
      opSpecific op f = none ∧ extWords scheme op f rest = .ok ext ∧ build op f ext = some i := by
  simp only [decodeFields] at h
  split at h
  · cases h
  next op hop =>
  split at h
  · cases h
  next hu =>
  split at h
  · cases h
  next hr =>
  split at h
  · cases h
  next ho =>
  split at h
  · cases h
  next ext he =>
  split at h
  next j hb =>
    cases h
    exact ⟨op, ext, hop, by simpa using hu, by simpa using hr, ho, he, hb⟩
  · cases h

/-- The extension words found: as many as the base word tells, which the opcode allows, the header's `IMM12` zero, the words
there (R58, R64 step 6). -/
theorem extWords_ok {scheme : ExtScheme} {op : Opcode} {f : Fields} {rest ext : List Word32}
    (h : extWords scheme op f rest = .ok ext) :
    extCount scheme op.format f ≤ op.maxExt ∧ (extCount scheme op.format f = 0 ∨ f.imm = 0#12) ∧
      extCount scheme op.format f ≤ rest.length ∧ ext = rest.take (extCount scheme op.format f) := by
  simp only [extWords] at h
  split at h
  · cases h
  next h1 =>
  split at h
  · cases h
  next h2 =>
  split at h
  · cases h
  next h3 =>
  cases h
  refine ⟨by omega, ?_, by omega, rfl⟩
  by_cases h0 : extCount scheme op.format f = 0
  · exact .inl h0
  · right
    by_contra hi
    exact h2 ⟨h0, hi⟩

end Sys2Proof
end

