-- ==== Sys2Proof/Laws/Memory.lean ====
section
/-! SUPPORT. The laws of data memory: what a read gives after a write, the canonical form is kept by every operation, the
addresses stay inside memory; and the little-endian bytes of a value. -/

namespace Sys2Proof.Machine

/-! ### Read after write -/

@[simp] theorem Memory.read_nil (x : Nat) : Memory.read [] x = Memory.unlisted := rfl

theorem Memory.read_erase (m : Memory) (x y : Nat) :
    Memory.read (Memory.erase x m) y = if y = x then Memory.unlisted else Memory.read m y := by
  induction m with
  | nil => simp [Memory.erase]
  | cons c m ih =>
    by_cases hc : c.1 = x
    · have he : Memory.erase x (c :: m) = Memory.erase x m := List.filter_cons_of_neg (by simp [hc])
      rw [he, ih]
      by_cases hy : y = x
      · simp [hy]
      · simp [hy, Memory.read, show c.1 ≠ y by omega]
    · have he : Memory.erase x (c :: m) = c :: Memory.erase x m := List.filter_cons_of_pos (by simp [hc])
      simp only [he, Memory.read, ih]
      by_cases hy : c.1 = y
      · simp [← hy, hc]
      · simp [hy]

theorem Memory.mem_erase {m : Memory} {x : Nat} {c : Host.Cell} : c ∈ Memory.erase x m ↔ c ∈ m ∧ c.1 ≠ x := by
  simp [Memory.erase]

theorem Memory.read_insert {m : Memory} {x : Nat} (h : ∀ c ∈ m, c.1 ≠ x) (b : Byte) (y : Nat) :
    Memory.read (Memory.insert x b m) y = if y = x then b else Memory.read m y := by
  induction m with
  | nil => by_cases hy : x = y <;> simp [Memory.insert, Memory.read, hy, eq_comm]
  | cons c m ih =>
    have hc : c.1 ≠ x := h c (by simp)
    have ih := ih (fun d hd => h d (by simp [hd]))
    by_cases hlt : x < c.1
    · simp only [Memory.insert, hlt, if_true, Memory.read]
      by_cases hy : x = y
      · simp [hy]
      · simp [hy, Ne.symm hy]
    · simp only [Memory.insert, hlt, if_false, Memory.read, ih]
      by_cases hy : c.1 = y
      · simp [← hy, hc]
      · simp [hy]

/-- A byte read after a byte written. -/
theorem Memory.read_write (m : Memory) (x y : Nat) (b : Byte) :
    Memory.read (Memory.write m x b) y = if y = x then b else Memory.read m y := by
  by_cases hb : b = Memory.unlisted
  · simp only [Memory.write, hb, if_true, Memory.read_erase]
  · have h : ∀ c ∈ Memory.erase x m, c.1 ≠ x := fun c hc => (Memory.mem_erase.mp hc).2
    simp only [Memory.write, hb, if_false, Memory.read_insert h, Memory.read_erase]
    by_cases hy : y = x <;> simp [hy]

/-- A byte read after bytes written from an address up. -/
theorem Memory.read_writeBytes (m : Memory) (x y : Nat) (bs : List Byte) :
    Memory.read (Memory.writeBytes m x bs) y =
      if x ≤ y ∧ y < x + bs.length then bs.getD (y - x) Memory.unlisted else Memory.read m y := by
  induction bs generalizing m x with
  | nil =>
    have : ¬ (x ≤ y ∧ y < x + 0) := by omega
    simp [Memory.writeBytes]
  | cons b bs ih =>
    simp only [Memory.writeBytes, ih, Memory.read_write, List.length_cons]
    by_cases hx : y = x
    · subst hx
      have h1 : ¬ (y + 1 ≤ y ∧ y < y + 1 + bs.length) := by omega
      simp
    · by_cases hin : x + 1 ≤ y ∧ y < x + 1 + bs.length
      · have h2 : x ≤ y ∧ y < x + (bs.length + 1) := by omega
        have h3 : y - x = (y - (x + 1)) + 1 := by omega
        rw [if_pos hin, if_pos h2, h3, List.getD_cons_succ]
      · have h2 : ¬ (x ≤ y ∧ y < x + (bs.length + 1)) := by omega
        rw [if_neg hin, if_neg h2, if_neg hx]

/-- Outside the bytes written, memory reads as before. -/
theorem Memory.read_writeBytes_outside (m : Memory) (x y : Nat) (bs : List Byte)
    (h : ¬ (x ≤ y ∧ y < x + bs.length)) : Memory.read (Memory.writeBytes m x bs) y = Memory.read m y := by
  rw [Memory.read_writeBytes, if_neg h]

/-- Outside the destination range, the copy loop leaves memory as before. -/
theorem Memory.read_copyUp_outside (m : Memory) (src dst n y : Nat) (h : ¬ (dst ≤ y ∧ y < dst + n)) :
    Memory.read (Memory.copyUp m src dst n) y = Memory.read m y := by
  induction n generalizing m src dst with
  | zero => rfl
  | succ n ih =>
    have h1 : ¬ (dst + 1 ≤ y ∧ y < dst + 1 + n) := by omega
    have h2 : y ≠ dst := by omega
    rw [Memory.copyUp, ih _ _ _ h1, Memory.read_write, if_neg h2]

@[simp] theorem Memory.readBytes_length (m : Memory) (x n : Nat) : (Memory.readBytes m x n).length = n := by
  simp [Memory.readBytes]

/-! ### The canonical form -/

/-- The canonical form as a proposition. -/
theorem Memory.wf_iff (m : Memory) :
    Memory.wf m = true ↔ m.Pairwise (fun c d => c.1 < d.1) ∧ ∀ c ∈ m, c.2 ≠ Memory.unlisted := by
  simp [Memory.wf]

theorem Memory.mem_insert {m : Memory} {x : Nat} {b : Byte} {c : Host.Cell} :
    c ∈ Memory.insert x b m ↔ c = (x, b) ∨ c ∈ m := by
  induction m with
  | nil => simp [Memory.insert]
  | cons d m ih =>
    by_cases h : x < d.1
    · simp [Memory.insert, h]
    · simp only [Memory.insert, h, if_false, List.mem_cons, ih]
      tauto

theorem Memory.pairwise_insert {m : Memory} {x : Nat} (h : ∀ c ∈ m, c.1 ≠ x) (b : Byte)
    (hm : m.Pairwise (fun c d => c.1 < d.1)) : (Memory.insert x b m).Pairwise (fun c d => c.1 < d.1) := by
  induction m with
  | nil => simp [Memory.insert]
  | cons d m ih =>
    rw [List.pairwise_cons] at hm
    by_cases hlt : x < d.1
    · simp only [Memory.insert, hlt, if_true]
      refine List.pairwise_cons.mpr ⟨fun c hc => ?_, List.pairwise_cons.mpr hm⟩
      rcases List.mem_cons.mp hc with rfl | hc
      · exact hlt
      · exact Nat.lt_trans hlt (hm.1 c hc)
    · simp only [Memory.insert, hlt, if_false]
      have hd : d.1 ≠ x := h d (by simp)
      refine List.pairwise_cons.mpr ⟨fun c hc => ?_, ih (fun c hc => h c (by simp [hc])) hm.2⟩
      rcases Memory.mem_insert.mp hc with rfl | hc
      · show d.1 < x; omega
      · exact hm.1 c hc

/-- A write keeps the canonical form. -/
theorem Memory.write_wf {m : Memory} (hm : Memory.wf m = true) (x : Nat) (b : Byte) :
    Memory.wf (Memory.write m x b) = true := by
  rw [Memory.wf_iff] at hm ⊢
  have he : (Memory.erase x m).Pairwise (fun c d => c.1 < d.1) := hm.1.filter _
  have hn : ∀ c ∈ Memory.erase x m, c.2 ≠ Memory.unlisted := fun c hc => hm.2 c (Memory.mem_erase.mp hc).1
  by_cases hb : b = Memory.unlisted
  · simpa only [Memory.write, hb, if_true] using ⟨he, hn⟩
  · simp only [Memory.write, hb, if_false]
    refine ⟨Memory.pairwise_insert (fun c hc => (Memory.mem_erase.mp hc).2) b he, fun c hc => ?_⟩
    rcases Memory.mem_insert.mp hc with rfl | hc
    · exact hb
    · exact hn c hc

theorem Memory.writeBytes_wf {m : Memory} (hm : Memory.wf m = true) (x : Nat) (bs : List Byte) :
    Memory.wf (Memory.writeBytes m x bs) = true := by
  induction bs generalizing m x with
  | nil => exact hm
  | cons b bs ih => exact ih (Memory.write_wf hm x b) (x + 1)

theorem Memory.copyUp_wf {m : Memory} (hm : Memory.wf m = true) (src dst n : Nat) :
    Memory.wf (Memory.copyUp m src dst n) = true := by
  induction n generalizing m src dst with
  | zero => exact hm
  | succ n ih => exact ih (Memory.write_wf hm dst _) _ _

/-! ### Addresses inside memory -/

theorem Memory.within_iff (size : Nat) (m : Memory) : Memory.within size m = true ↔ ∀ c ∈ m, c.1 < size := by
  simp [Memory.within]

theorem Memory.write_within {size : Nat} {m : Memory} (hm : Memory.within size m = true) {x : Nat} (hx : x < size)
    (b : Byte) : Memory.within size (Memory.write m x b) = true := by
  rw [Memory.within_iff] at hm ⊢
  intro c hc
  by_cases hb : b = Memory.unlisted
  · simp only [Memory.write, hb, if_true] at hc
    exact hm c (Memory.mem_erase.mp hc).1
  · simp only [Memory.write, hb, if_false] at hc
    rcases Memory.mem_insert.mp hc with rfl | hc
    · exact hx
    · exact hm c (Memory.mem_erase.mp hc).1

theorem Memory.writeBytes_within {size : Nat} {m : Memory} (hm : Memory.within size m = true) (x : Nat) (bs : List Byte)
    (hx : bs = [] ∨ x + bs.length ≤ size) : Memory.within size (Memory.writeBytes m x bs) = true := by
  induction bs generalizing m x with
  | nil => exact hm
  | cons b bs ih =>
    have h : x + (bs.length + 1) ≤ size := by simpa using hx
    exact ih (Memory.write_within hm (by omega) b) (x + 1) (.inr (by omega))

theorem Memory.copyUp_within {size : Nat} {m : Memory} (hm : Memory.within size m = true) (src dst n : Nat)
    (hx : n = 0 ∨ dst + n ≤ size) : Memory.within size (Memory.copyUp m src dst n) = true := by
  induction n generalizing m src dst with
  | zero => exact hm
  | succ n ih => exact ih (Memory.write_within hm (by omega) _) _ _ (.inr (by omega))

/-! ### Little-endian bytes -/

@[simp] theorem leBytes_length {w : Nat} (n : Nat) (v : BitVec w) : (leBytes n v).length = n := by simp [leBytes]

theorem leBytes_getD {w : Nat} (n : Nat) (v : BitVec w) {k : Nat} (hk : k < n) (d : Byte) :
    (leBytes n v).getD k d = v.extractLsb' (8 * k) 8 := by
  simp [leBytes, List.getD_eq_getElem?_getD, hk]

theorem ofLeBytes_lt (bs : List Byte) : ofLeBytes bs < 256 ^ bs.length := by
  induction bs with
  | nil => simp [ofLeBytes]
  | cons b bs ih =>
    have hb : b.toNat < 256 := b.isLt
    simp only [ofLeBytes, List.length_cons, Nat.pow_succ]
    omega

/-- Digit `k` in base 256 of the number of little-endian bytes is byte `k`. -/
theorem ofLeBytes_digit (bs : List Byte) (k : Nat) :
    ofLeBytes bs / 256 ^ k % 256 = (bs.getD k 0#8).toNat := by
  induction bs generalizing k with
  | nil => simp [ofLeBytes]
  | cons b bs ih =>
    have hb : b.toNat < 256 := b.isLt
    cases k with
    | zero => simp [ofLeBytes]; omega
    | succ k =>
      have : (b.toNat + 256 * ofLeBytes bs) / 256 ^ (k + 1) = ofLeBytes bs / 256 ^ k := by
        rw [Nat.pow_succ', ← Nat.div_div_eq_div_mul]
        congr 1
        omega
      simp only [ofLeBytes, this, ih, List.getD_cons_succ]

end Sys2Proof.Machine
end

