-- ==== Sys2Proof/Laws/State.lean ====
section
/-! SUPPORT. One lemma per field per update of State, each true by rfl, and the laws of the register file. -/

namespace Sys2Proof.Machine

/-! ### The register file -/

/-- Reading a register after a write of one. -/
theorem Regs.get_set (x : Regs) (r q : Reg) (v : Word) : (x.set r v).get q = if q = r then v else x.get q := by
  cases r <;> cases q <;> rfl

@[simp] theorem Regs.get_set_same (x : Regs) (r : Reg) (v : Word) : (x.set r v).get r = v := by
  simp [Regs.get_set]

theorem State.reg_setReg (s : State) (r q : Reg) (v : Word) :
    (s.setReg r v).reg q = if q = r then v else s.reg q := Regs.get_set s.regs r q v

@[simp] theorem State.reg_setReg_same (s : State) (r : Reg) (v : Word) : (s.setReg r v).reg r = v :=
  Regs.get_set_same s.regs r v

theorem State.reg_freeReg (s : State) (r q : Reg) :
    (s.freeReg r).reg q = if q = r then Config.freeReg s.freeTick else s.reg q := Regs.get_set s.regs r q _

/-! ### setReg -/

@[simp] theorem State.setReg_regs (s : State) (r : Reg) (v : Word) : (s.setReg r v).regs = s.regs.set r v := rfl
@[simp] theorem State.setReg_cmp (s : State) (r : Reg) (v : Word) : (s.setReg r v).cmp = s.cmp := rfl
@[simp] theorem State.setReg_pc (s : State) (r : Reg) (v : Word) : (s.setReg r v).pc = s.pc := rfl
@[simp] theorem State.setReg_rs (s : State) (r : Reg) (v : Word) : (s.setReg r v).rs = s.rs := rfl
@[simp] theorem State.setReg_mem (s : State) (r : Reg) (v : Word) : (s.setReg r v).mem = s.mem := rfl
@[simp] theorem State.setReg_status (s : State) (r : Reg) (v : Word) : (s.setReg r v).status = s.status := rfl
@[simp] theorem State.setReg_prog (s : State) (r : Reg) (v : Word) : (s.setReg r v).prog = s.prog := rfl
@[simp] theorem State.setReg_cfg (s : State) (r : Reg) (v : Word) : (s.setReg r v).cfg = s.cfg := rfl
@[simp] theorem State.setReg_freeTick (s : State) (r : Reg) (v : Word) : (s.setReg r v).freeTick = s.freeTick := rfl

/-! ### setCmp -/

@[simp] theorem State.setCmp_regs (s : State) (v : Word32) : (s.setCmp v).regs = s.regs := rfl
@[simp] theorem State.setCmp_cmp (s : State) (v : Word32) : (s.setCmp v).cmp = v := rfl
@[simp] theorem State.setCmp_pc (s : State) (v : Word32) : (s.setCmp v).pc = s.pc := rfl
@[simp] theorem State.setCmp_rs (s : State) (v : Word32) : (s.setCmp v).rs = s.rs := rfl
@[simp] theorem State.setCmp_mem (s : State) (v : Word32) : (s.setCmp v).mem = s.mem := rfl
@[simp] theorem State.setCmp_status (s : State) (v : Word32) : (s.setCmp v).status = s.status := rfl
@[simp] theorem State.setCmp_prog (s : State) (v : Word32) : (s.setCmp v).prog = s.prog := rfl
@[simp] theorem State.setCmp_cfg (s : State) (v : Word32) : (s.setCmp v).cfg = s.cfg := rfl
@[simp] theorem State.setCmp_freeTick (s : State) (v : Word32) : (s.setCmp v).freeTick = s.freeTick := rfl
@[simp] theorem State.setCmp_reg (s : State) (v : Word32) (q : Reg) : (s.setCmp v).reg q = s.reg q := rfl

/-! ### setPc -/

@[simp] theorem State.setPc_regs (s : State) (v : Word) : (s.setPc v).regs = s.regs := rfl
@[simp] theorem State.setPc_cmp (s : State) (v : Word) : (s.setPc v).cmp = s.cmp := rfl
@[simp] theorem State.setPc_pc (s : State) (v : Word) : (s.setPc v).pc = v := rfl
@[simp] theorem State.setPc_rs (s : State) (v : Word) : (s.setPc v).rs = s.rs := rfl
@[simp] theorem State.setPc_mem (s : State) (v : Word) : (s.setPc v).mem = s.mem := rfl
@[simp] theorem State.setPc_status (s : State) (v : Word) : (s.setPc v).status = s.status := rfl
@[simp] theorem State.setPc_prog (s : State) (v : Word) : (s.setPc v).prog = s.prog := rfl
@[simp] theorem State.setPc_cfg (s : State) (v : Word) : (s.setPc v).cfg = s.cfg := rfl
@[simp] theorem State.setPc_freeTick (s : State) (v : Word) : (s.setPc v).freeTick = s.freeTick := rfl
@[simp] theorem State.setPc_reg (s : State) (v : Word) (q : Reg) : (s.setPc v).reg q = s.reg q := rfl

/-! ### advance -/

@[simp] theorem State.advance_regs (s : State) (len : Nat) : (s.advance len).regs = s.regs := rfl
@[simp] theorem State.advance_cmp (s : State) (len : Nat) : (s.advance len).cmp = s.cmp := rfl
@[simp] theorem State.advance_pc (s : State) (len : Nat) : (s.advance len).pc = s.nextPc len := rfl
@[simp] theorem State.advance_rs (s : State) (len : Nat) : (s.advance len).rs = s.rs := rfl
@[simp] theorem State.advance_mem (s : State) (len : Nat) : (s.advance len).mem = s.mem := rfl
@[simp] theorem State.advance_status (s : State) (len : Nat) : (s.advance len).status = s.status := rfl
@[simp] theorem State.advance_prog (s : State) (len : Nat) : (s.advance len).prog = s.prog := rfl
@[simp] theorem State.advance_cfg (s : State) (len : Nat) : (s.advance len).cfg = s.cfg := rfl
@[simp] theorem State.advance_freeTick (s : State) (len : Nat) : (s.advance len).freeTick = s.freeTick := rfl
@[simp] theorem State.advance_reg (s : State) (len : Nat) (q : Reg) : (s.advance len).reg q = s.reg q := rfl

/-! ### raise -/

@[simp] theorem State.raise_regs (s : State) (t : Trap) : (s.raise t).regs = s.regs := rfl
@[simp] theorem State.raise_cmp (s : State) (t : Trap) : (s.raise t).cmp = s.cmp := rfl
@[simp] theorem State.raise_pc (s : State) (t : Trap) : (s.raise t).pc = s.pc := rfl
@[simp] theorem State.raise_rs (s : State) (t : Trap) : (s.raise t).rs = s.rs := rfl
@[simp] theorem State.raise_mem (s : State) (t : Trap) : (s.raise t).mem = s.mem := rfl
@[simp] theorem State.raise_status (s : State) (t : Trap) : (s.raise t).status = .trapped t s.pc := rfl
@[simp] theorem State.raise_prog (s : State) (t : Trap) : (s.raise t).prog = s.prog := rfl
@[simp] theorem State.raise_cfg (s : State) (t : Trap) : (s.raise t).cfg = s.cfg := rfl
@[simp] theorem State.raise_freeTick (s : State) (t : Trap) : (s.raise t).freeTick = s.freeTick := rfl
@[simp] theorem State.raise_reg (s : State) (t : Trap) (q : Reg) : (s.raise t).reg q = s.reg q := rfl

/-! ### halt -/

@[simp] theorem State.halt_regs (s : State) : (s.halt).regs = s.regs := rfl
@[simp] theorem State.halt_cmp (s : State) : (s.halt).cmp = s.cmp := rfl
@[simp] theorem State.halt_pc (s : State) : (s.halt).pc = s.pc := rfl
@[simp] theorem State.halt_rs (s : State) : (s.halt).rs = s.rs := rfl
@[simp] theorem State.halt_mem (s : State) : (s.halt).mem = s.mem := rfl
@[simp] theorem State.halt_status (s : State) : (s.halt).status = .halted := rfl
@[simp] theorem State.halt_prog (s : State) : (s.halt).prog = s.prog := rfl
@[simp] theorem State.halt_cfg (s : State) : (s.halt).cfg = s.cfg := rfl
@[simp] theorem State.halt_freeTick (s : State) : (s.halt).freeTick = s.freeTick := rfl
@[simp] theorem State.halt_reg (s : State) (q : Reg) : (s.halt).reg q = s.reg q := rfl

/-! ### setMem -/

@[simp] theorem State.setMem_regs (s : State) (m : Memory) : (s.setMem m).regs = s.regs := rfl
@[simp] theorem State.setMem_cmp (s : State) (m : Memory) : (s.setMem m).cmp = s.cmp := rfl
@[simp] theorem State.setMem_pc (s : State) (m : Memory) : (s.setMem m).pc = s.pc := rfl
@[simp] theorem State.setMem_rs (s : State) (m : Memory) : (s.setMem m).rs = s.rs := rfl
@[simp] theorem State.setMem_mem (s : State) (m : Memory) : (s.setMem m).mem = m := rfl
@[simp] theorem State.setMem_status (s : State) (m : Memory) : (s.setMem m).status = s.status := rfl
@[simp] theorem State.setMem_prog (s : State) (m : Memory) : (s.setMem m).prog = s.prog := rfl
@[simp] theorem State.setMem_cfg (s : State) (m : Memory) : (s.setMem m).cfg = s.cfg := rfl
@[simp] theorem State.setMem_freeTick (s : State) (m : Memory) : (s.setMem m).freeTick = s.freeTick := rfl
@[simp] theorem State.setMem_reg (s : State) (m : Memory) (q : Reg) : (s.setMem m).reg q = s.reg q := rfl

/-! ### setRs -/

@[simp] theorem State.setRs_regs (s : State) (rs : List Word) : (s.setRs rs).regs = s.regs := rfl
@[simp] theorem State.setRs_cmp (s : State) (rs : List Word) : (s.setRs rs).cmp = s.cmp := rfl
@[simp] theorem State.setRs_pc (s : State) (rs : List Word) : (s.setRs rs).pc = s.pc := rfl
@[simp] theorem State.setRs_rs (s : State) (rs : List Word) : (s.setRs rs).rs = rs := rfl
@[simp] theorem State.setRs_mem (s : State) (rs : List Word) : (s.setRs rs).mem = s.mem := rfl
@[simp] theorem State.setRs_status (s : State) (rs : List Word) : (s.setRs rs).status = s.status := rfl
@[simp] theorem State.setRs_prog (s : State) (rs : List Word) : (s.setRs rs).prog = s.prog := rfl
@[simp] theorem State.setRs_cfg (s : State) (rs : List Word) : (s.setRs rs).cfg = s.cfg := rfl
@[simp] theorem State.setRs_freeTick (s : State) (rs : List Word) : (s.setRs rs).freeTick = s.freeTick := rfl
@[simp] theorem State.setRs_reg (s : State) (rs : List Word) (q : Reg) : (s.setRs rs).reg q = s.reg q := rfl

/-! ### push -/

@[simp] theorem State.push_regs (s : State) (v : Word) : (s.push v).regs = s.regs := rfl
@[simp] theorem State.push_cmp (s : State) (v : Word) : (s.push v).cmp = s.cmp := rfl
@[simp] theorem State.push_pc (s : State) (v : Word) : (s.push v).pc = s.pc := rfl
@[simp] theorem State.push_rs (s : State) (v : Word) : (s.push v).rs = v :: s.rs := rfl
@[simp] theorem State.push_mem (s : State) (v : Word) : (s.push v).mem = s.mem := rfl
@[simp] theorem State.push_status (s : State) (v : Word) : (s.push v).status = s.status := rfl
@[simp] theorem State.push_prog (s : State) (v : Word) : (s.push v).prog = s.prog := rfl
@[simp] theorem State.push_cfg (s : State) (v : Word) : (s.push v).cfg = s.cfg := rfl
@[simp] theorem State.push_freeTick (s : State) (v : Word) : (s.push v).freeTick = s.freeTick := rfl
@[simp] theorem State.push_reg (s : State) (v : Word) (q : Reg) : (s.push v).reg q = s.reg q := rfl

/-! ### freeReg -/

@[simp] theorem State.freeReg_regs (s : State) (r : Reg) : (s.freeReg r).regs = s.regs.set r (Config.freeReg s.freeTick) := rfl
@[simp] theorem State.freeReg_cmp (s : State) (r : Reg) : (s.freeReg r).cmp = s.cmp := rfl
@[simp] theorem State.freeReg_pc (s : State) (r : Reg) : (s.freeReg r).pc = s.pc := rfl
@[simp] theorem State.freeReg_rs (s : State) (r : Reg) : (s.freeReg r).rs = s.rs := rfl
@[simp] theorem State.freeReg_mem (s : State) (r : Reg) : (s.freeReg r).mem = s.mem := rfl
@[simp] theorem State.freeReg_status (s : State) (r : Reg) : (s.freeReg r).status = s.status := rfl
@[simp] theorem State.freeReg_prog (s : State) (r : Reg) : (s.freeReg r).prog = s.prog := rfl
@[simp] theorem State.freeReg_cfg (s : State) (r : Reg) : (s.freeReg r).cfg = s.cfg := rfl
@[simp] theorem State.freeReg_freeTick (s : State) (r : Reg) : (s.freeReg r).freeTick = s.freeTick + 1 := rfl

/-! ### freeCmp -/

@[simp] theorem State.freeCmp_regs (s : State) : (s.freeCmp).regs = s.regs := rfl
@[simp] theorem State.freeCmp_cmp (s : State) : (s.freeCmp).cmp = Config.freeCmp s.freeTick := rfl
@[simp] theorem State.freeCmp_pc (s : State) : (s.freeCmp).pc = s.pc := rfl
@[simp] theorem State.freeCmp_rs (s : State) : (s.freeCmp).rs = s.rs := rfl
@[simp] theorem State.freeCmp_mem (s : State) : (s.freeCmp).mem = s.mem := rfl
@[simp] theorem State.freeCmp_status (s : State) : (s.freeCmp).status = s.status := rfl
@[simp] theorem State.freeCmp_prog (s : State) : (s.freeCmp).prog = s.prog := rfl
@[simp] theorem State.freeCmp_cfg (s : State) : (s.freeCmp).cfg = s.cfg := rfl
@[simp] theorem State.freeCmp_freeTick (s : State) : (s.freeCmp).freeTick = s.freeTick + 1 := rfl
@[simp] theorem State.freeCmp_reg (s : State) (q : Reg) : (s.freeCmp).reg q = s.reg q := rfl

/-! ### freeBytes -/

@[simp] theorem State.freeBytes_regs (s : State) (x n : Nat) : (s.freeBytes x n).regs = s.regs := rfl
@[simp] theorem State.freeBytes_cmp (s : State) (x n : Nat) : (s.freeBytes x n).cmp = s.cmp := rfl
@[simp] theorem State.freeBytes_pc (s : State) (x n : Nat) : (s.freeBytes x n).pc = s.pc := rfl
@[simp] theorem State.freeBytes_rs (s : State) (x n : Nat) : (s.freeBytes x n).rs = s.rs := rfl
@[simp] theorem State.freeBytes_mem (s : State) (x n : Nat) : (s.freeBytes x n).mem = Memory.writeBytes s.mem x ((List.range n).map (fun k => Config.freeByte s.freeTick (x + k))) := rfl
@[simp] theorem State.freeBytes_status (s : State) (x n : Nat) : (s.freeBytes x n).status = s.status := rfl
@[simp] theorem State.freeBytes_prog (s : State) (x n : Nat) : (s.freeBytes x n).prog = s.prog := rfl
@[simp] theorem State.freeBytes_cfg (s : State) (x n : Nat) : (s.freeBytes x n).cfg = s.cfg := rfl
@[simp] theorem State.freeBytes_freeTick (s : State) (x n : Nat) : (s.freeBytes x n).freeTick = s.freeTick + 1 := rfl
@[simp] theorem State.freeBytes_reg (s : State) (x n : Nat) (q : Reg) : (s.freeBytes x n).reg q = s.reg q := rfl

end Sys2Proof.Machine
end

