-- ==== Sys2Proof/Laws/Ops.lean ====
section
/-! SUPPORT. For each shared operation, once, everything it can do: what it answers and when, and what it leaves alone. -/

namespace Sys2Proof.Machine

/-! ### Addresses -/

theorem regNum_eq (r : Reg) : regNum r = r.index.toNat := by cases r <;> rfl

theorem condNum_eq (c : Cond) : condNum c = c.code.toNat := by cases c <;> rfl

/-- A base word is the sum of its fields (R51). -/
theorem toWord_eq_baseWord (f : Fields) :
    f.toWord = baseWord f.op.toNat f.rd.toNat f.rs1.toNat f.rs2.toNat f.imm.toNat := by
  apply BitVec.eq_of_toNat_eq
  have h := f.toWord.isLt
  rw [f.toWord_toNat] at h
  rw [f.toWord_toNat, baseWord, BitVec.toNat_ofNat, Nat.mod_eq_of_lt h]

/-- The low half of a register as a number (R6, R100). -/
theorem State.reg32_toNat (s : State) (r : Reg) : (s.reg32 r).toNat = operand 32 s r := by
  simp [State.reg32, lo32, operand, BitVec.extractLsb'_toNat]

theorem State.reg_toNat (s : State) (r : Reg) : (s.reg r).toNat = operand 64 s r :=
  (Nat.mod_eq_of_lt (s.reg r).isLt).symm

/-- Reading a bit vector as signed (R6). -/
theorem toInt_eq_asSigned {w : Nat} (v : BitVec w) : v.toInt = asSigned w v.toNat := by
  have h := v.isLt
  rw [BitVec.toInt_eq_toNat_cond, asSigned]
  cases w with
  | zero =>
    have : v.toNat = 0 := by omega
    simp [this]
  | succ w =>
    rw [Nat.pow_succ, Nat.add_sub_cancel]
    split <;> split <;> first | rfl | (push_cast; omega)

/-- A 32-bit value zero-extended is the number it is, wrapped (R6, R100). -/
theorem zext64_eq_wrapTo (v : Word32) (z : Int) (h : v = BitVec.ofInt 32 z) : zext64 v = wrapTo 32 z := by
  subst h
  apply BitVec.eq_of_toNat_eq
  simp only [zext64, wrapTo, BitVec.toNat_setWidth, BitVec.toNat_ofInt]
  have h1 : 0 ≤ z % 2 ^ 32 := Int.emod_nonneg _ (by norm_num)
  have h2 : z % 2 ^ 32 < 2 ^ 32 := Int.emod_lt_of_pos _ (by norm_num)
  push_cast
  omega

/-- A 64-bit value is the number it is, wrapped (R6). -/
theorem eq_wrapTo (v : Word) (z : Int) (h : v = BitVec.ofInt 64 z) : v = wrapTo 64 z := by
  subst h
  apply BitVec.eq_of_toNat_eq
  simp only [wrapTo, BitVec.toNat_ofInt]
  push_cast
  omega

theorem State.inBounds_iff (s : State) (addr : Int) (n : Nat) :
    s.inBounds addr n = true ↔ 0 ≤ addr ∧ addr + n ≤ s.cfg.memSize := by simp [State.inBounds]

/-- The next instruction's address as a number (R15). -/
theorem State.nextPc_toNat (s : State) (len : Nat) : (s.nextPc len).toNat = (s.pc.toNat + 4 * len) % 2 ^ 64 := by
  simp [State.nextPc]

theorem State.nextPc_aligned (s : State) (len : Nat) (h : s.pc.toNat % 4 = 0) : (s.nextPc len).toNat % 4 = 0 := by
  rw [State.nextPc_toNat]
  omega

theorem State.advance_advancedBy (s : State) (len : Nat) : AdvancedBy len s (s.advance len) := s.nextPc_toNat len

/-! ### Memory accesses -/

/-- `MemRead` answers exactly on the accesses in bounds (R36). -/
theorem State.memRead_ok_iff (s : State) (addr : Int) (n : Nat) (v : BitVec (8 * n)) :
    s.memRead addr n = .ok v ↔ (0 ≤ addr ∧ addr + n ≤ s.cfg.memSize) ∧
      v = BitVec.ofNat (8 * n) (ofLeBytes (Memory.readBytes s.mem addr.toNat n)) := by
  rw [← State.inBounds_iff]
  by_cases hb : s.inBounds addr n = true
  · simp only [State.memRead, hb, if_true, true_and, Except.ok.injEq]
    exact eq_comm
  · simp [State.memRead, hb]

theorem State.memRead_error_iff (s : State) (addr : Int) (n : Nat) (c : Trap) :
    s.memRead addr n = .error c ↔ ¬ (0 ≤ addr ∧ addr + n ≤ s.cfg.memSize) ∧ c = .memoryBounds addr n := by
  rw [← State.inBounds_iff]
  by_cases hb : s.inBounds addr n = true
  · simp [State.memRead, hb]
  · simp only [State.memRead, hb, Bool.false_eq_true, if_false, not_false_eq_true, true_and, Except.error.injEq]
    exact eq_comm

theorem Memory.getD_readBytes (m : Memory) (x : Nat) {n k : Nat} (hk : k < n) (d : Byte) :
    (Memory.readBytes m x n).getD k d = Memory.read m (x + k) := by
  simp [Memory.readBytes, List.getD_eq_getElem?_getD, hk]

/-- Byte `k` of what `MemRead` answers is the byte at `addr + k` (R31, R36). -/
theorem State.memRead_byte {s : State} {addr : Int} {n : Nat} {v : BitVec (8 * n)} (h : s.memRead addr n = .ok v)
    {k : Nat} (hk : k < n) : v.extractLsb' (8 * k) 8 = Memory.read s.mem (addr.toNat + k) := by
  obtain ⟨-, rfl⟩ := (s.memRead_ok_iff addr n v).mp h
  apply BitVec.eq_of_toNat_eq
  have hlt := ofLeBytes_lt (Memory.readBytes s.mem addr.toNat n)
  have hd := ofLeBytes_digit (Memory.readBytes s.mem addr.toNat n) k
  rw [Memory.readBytes_length] at hlt
  rw [Memory.getD_readBytes _ _ hk] at hd
  have h8 : (256 : Nat) ^ n = 2 ^ (8 * n) := by rw [Nat.pow_mul]
  have hk8 : (2 : Nat) ^ (8 * k) = 256 ^ k := by rw [Nat.pow_mul]
  rw [h8] at hlt
  rw [BitVec.extractLsb'_toNat, BitVec.toNat_ofNat, Nat.mod_eq_of_lt hlt, Nat.shiftRight_eq_div_pow, hk8]
  exact hd

/-- `MemWrite` answers exactly on the accesses in bounds, and then only data memory has changed (R37). -/
theorem State.memWrite_ok_iff (s : State) (addr : Int) (n : Nat) (v : BitVec (8 * n)) (t : State) :
    s.memWrite addr n v = .ok t ↔ (0 ≤ addr ∧ addr + n ≤ s.cfg.memSize) ∧
      t = s.setMem (Memory.writeBytes s.mem addr.toNat (leBytes n v)) := by
  rw [← State.inBounds_iff]
  by_cases hb : s.inBounds addr n = true
  · simp only [State.memWrite, hb, if_true, true_and, Except.ok.injEq]
    exact eq_comm
  · simp [State.memWrite, hb]

theorem State.memWrite_error_iff (s : State) (addr : Int) (n : Nat) (v : BitVec (8 * n)) (c : Trap) :
    s.memWrite addr n v = .error c ↔ ¬ (0 ≤ addr ∧ addr + n ≤ s.cfg.memSize) ∧ c = .memoryBounds addr n := by
  rw [← State.inBounds_iff]
  by_cases hb : s.inBounds addr n = true
  · simp [State.memWrite, hb]
  · simp only [State.memWrite, hb, Bool.false_eq_true, if_false, not_false_eq_true, true_and, Except.error.injEq]
    exact eq_comm

/-- A byte of memory after the bytes of a value were written (R31, R37). -/
theorem Memory.read_writeBytes_leBytes {w : Nat} (m : Memory) (x n y : Nat) (v : BitVec w) :
    Memory.read (Memory.writeBytes m x (leBytes n v)) y =
      if x ≤ y ∧ y < x + n then v.extractLsb' (8 * (y - x)) 8 else Memory.read m y := by
  rw [Memory.read_writeBytes, leBytes_length]
  split
  next h => rw [leBytes_getD n v (by omega)]
  · rfl

/-! ### The ends of an instruction -/

/-- An instruction that writes one register does that and nothing else. -/
theorem writeAndAdvance_writesOnly (rd : Reg) (v : Word) (len : Nat) (s : State) :
    ∃ t, writeAndAdvance rd v len s = .next t ∧ WritesOnly rd v len s t := by
  refine ⟨_, rfl, by simp, fun r hr => ?_, rfl, rfl, rfl, fun _ => rfl, ⟨rfl, rfl⟩, s.nextPc_toNat len⟩
  have : r ≠ rd := by simpa using hr
  simp [State.reg_setReg, this]

theorem writeOrTrap_ok (rd : Reg) (v : Word) (s : State) : writeOrTrap rd (.ok v) s = writeAndAdvance rd v 1 s := rfl

theorem writeOrTrap_error (rd : Reg) (c : Trap) (s : State) : writeOrTrap rd (.error c) s = .next (s.raise c) := rfl

/-- The two ends of an instruction whose result may be a trap. -/
theorem writeOrTrap_cases {rd : Reg} {r : Except Trap Word} {s t : State} (h : writeOrTrap rd r s = .next t) :
    (∃ v, r = .ok v ∧ t = (s.setReg rd v).advance 1) ∨ (∃ c, r = .error c ∧ t = s.raise c) := by
  cases r with
  | ok v => exact .inl ⟨v, rfl, by simpa [writeOrTrap, writeAndAdvance] using h.symm⟩
  | error c => exact .inr ⟨c, rfl, by simpa [writeOrTrap] using h.symm⟩

/-- The two ends of a load (R200). -/
theorem loadReg_cases {n : Nat} {ext : BitVec (8 * n) → Word} {rd rs1 : Reg} {imm : BitVec 12} {s t : State}
    (h : loadReg n ext rd rs1 imm s = .next t) :
    (∃ v, s.memRead (s.effectiveAddress rs1 imm) n = .ok v ∧ t = (s.setReg rd (ext v)).advance 1) ∨
      (s.inBounds (s.effectiveAddress rs1 imm) n = false ∧ t = s.raise (.memoryBounds (s.effectiveAddress rs1 imm) n)) := by
  rcases writeOrTrap_cases h with ⟨v, hv, rfl⟩ | ⟨c, hc, rfl⟩
  · cases hr : s.memRead (s.effectiveAddress rs1 imm) n with
    | error c => simp [hr, Except.map] at hv
    | ok m =>
      simp only [hr, Except.map, Except.ok.injEq] at hv
      exact .inl ⟨m, rfl, by rw [hv]⟩
  · cases hr : s.memRead (s.effectiveAddress rs1 imm) n with
    | ok m => simp [hr, Except.map] at hc
    | error d =>
      simp only [hr, Except.map, Except.error.injEq] at hc
      subst hc
      obtain ⟨hb, rfl⟩ := (s.memRead_error_iff _ _ _).mp hr
      refine .inr ⟨?_, rfl⟩
      rw [← State.inBounds_iff] at hb
      simpa using hb

/-- The two ends of a store (R220). -/
theorem storeReg_cases {n : Nat} {rs1 rs2 : Reg} {imm : BitVec 12} {s t : State} (h : storeReg n rs1 rs2 imm s = .next t) :
    (s.inBounds (s.effectiveAddress rs1 imm) n = true ∧
      t = (s.setMem (Memory.writeBytes s.mem (s.effectiveAddress rs1 imm).toNat
        (leBytes n ((s.reg rs2).setWidth (8 * n))))).advance 1) ∨
      (s.inBounds (s.effectiveAddress rs1 imm) n = false ∧ t = s.raise (.memoryBounds (s.effectiveAddress rs1 imm) n)) := by
  by_cases hb : s.inBounds (s.effectiveAddress rs1 imm) n = true
  · refine .inl ⟨hb, ?_⟩
    simpa [storeReg, State.memWrite, hb] using h.symm
  · have hb : s.inBounds (s.effectiveAddress rs1 imm) n = false := by simpa using hb
    refine .inr ⟨hb, ?_⟩
    simpa [storeReg, State.memWrite, hb] using h.symm

/-- `JR` goes one of two ways (R240). -/
theorem jumpRelative_cases {cc : Cond} {disp : Int} {len : Nat} {s t : State} (h : jumpRelative cc disp len s = .next t) :
    ((cc = .al ∨ condHolds cc s.cmp = true) ∧ t = s.setPc (s.jrTarget len disp)) ∨
      (¬ (cc = .al ∨ condHolds cc s.cmp = true) ∧ t = s.advance len) := by
  unfold jumpRelative at h
  split at h
  next hc => exact .inl ⟨hc, by simpa using h.symm⟩
  next hc => exact .inr ⟨hc, by simpa using h.symm⟩

/-- `CALL` pushes and goes, or traps on a full return stack (R244). -/
theorem callAbsolute_cases {target : Word} {len : Nat} {s t : State} (h : callAbsolute target len s = .next t) :
    (s.callStackFull = true ∧ t = s.raise .callStackOverflow) ∨
      (s.callStackFull = false ∧ t = (s.push (s.nextPc len)).setPc target) := by
  unfold callAbsolute at h
  split at h
  next hf => exact .inl ⟨hf, by simpa using h.symm⟩
  next hf => exact .inr ⟨by simpa using hf, by simpa using h.symm⟩

/-- The target of a `JR` keeps the alignment of its base: the displacement counts words (R35, R240). -/
theorem State.jrTarget_aligned (s : State) (len : Nat) (disp : Int) (h : s.pc.toNat % 4 = 0) :
    (s.jrTarget len disp).toNat % 4 = 0 := by
  have key : ∀ z : Int, (4 : Int) ∣ z → (BitVec.ofInt 64 z).toNat % 4 = 0 := by
    intro z hz
    rw [BitVec.toNat_ofInt]
    omega
  unfold State.jrTarget
  split <;> exact key _ (by omega)

/-! ### The free values of a macro-op -/

/-- Drawing values for registers leaves the other registers alone. -/
theorem State.reg_foldl_freeReg (rs : List Reg) (s : State) {q : Reg} (h : q ∉ rs) :
    (rs.foldl State.freeReg s).reg q = s.reg q := by
  induction rs generalizing s with
  | nil => rfl
  | cons r rs ih =>
    simp only [List.mem_cons, not_or] at h
    rw [List.foldl_cons, ih _ h.2, State.reg_freeReg, if_neg h.1]

/-- Drawing values for registers leaves everything but registers and the tick alone. -/
theorem State.foldl_freeReg_frame (rs : List Reg) (s : State) :
    (rs.foldl State.freeReg s).cmp = s.cmp ∧ (rs.foldl State.freeReg s).pc = s.pc ∧
      (rs.foldl State.freeReg s).rs = s.rs ∧ (rs.foldl State.freeReg s).mem = s.mem ∧
      (rs.foldl State.freeReg s).status = s.status ∧ (rs.foldl State.freeReg s).prog = s.prog ∧
      (rs.foldl State.freeReg s).cfg = s.cfg := by
  induction rs generalizing s with
  | nil => exact ⟨rfl, rfl, rfl, rfl, rfl, rfl, rfl⟩
  | cons r rs ih => simpa using ih (s.freeReg r)

/-- The end of a macro-op: what is as before, and the program counter (R255). -/
theorem State.macroEnd_frame (s : State) (scratch : List Reg) :
    (s.macroEnd scratch).pc = s.nextPc 1 ∧ (s.macroEnd scratch).rs = s.rs ∧ (s.macroEnd scratch).mem = s.mem ∧
      (s.macroEnd scratch).status = s.status ∧ (s.macroEnd scratch).prog = s.prog ∧ (s.macroEnd scratch).cfg = s.cfg := by
  obtain ⟨-, h2, h3, h4, h5, h6, h7⟩ := State.foldl_freeReg_frame scratch s
  exact ⟨by simp [State.macroEnd, State.nextPc, h2], h3, h4, h5, h6, h7⟩

theorem State.macroEnd_reg (s : State) (scratch : List Reg) {q : Reg} (h : q ∉ scratch) :
    (s.macroEnd scratch).reg q = s.reg q := State.reg_foldl_freeReg scratch s h

/-- A macro-op that traps: what is as before, `CMP` with it, and the status (R255, R300, R309). -/
theorem State.macroTrap_frame (s : State) (dst n : Nat) (scratch : List Reg) (c : Trap) :
    (s.macroTrap dst n scratch c).cmp = s.cmp ∧ (s.macroTrap dst n scratch c).pc = s.pc ∧
      (s.macroTrap dst n scratch c).rs = s.rs ∧ (s.macroTrap dst n scratch c).status = .trapped c s.pc ∧ (s.macroTrap dst n scratch c).prog = s.prog ∧
      (s.macroTrap dst n scratch c).cfg = s.cfg := by
  obtain ⟨h1, h2, h3, -, -, h6, h7⟩ := State.foldl_freeReg_frame scratch (s.freeBytes dst (s.inBoundsCount dst n))
  exact ⟨h1, h2, h3, by simp [State.macroTrap, h2], h6, h7⟩

theorem State.macroTrap_reg (s : State) (dst n : Nat) (scratch : List Reg) (c : Trap) {q : Reg} (h : q ∉ scratch) :
    (s.macroTrap dst n scratch c).reg q = s.reg q :=
  State.reg_foldl_freeReg scratch (s.freeBytes dst (s.inBoundsCount dst n)) h

theorem State.macroTrap_mem (s : State) (dst n : Nat) (scratch : List Reg) (c : Trap) :
    (s.macroTrap dst n scratch c).mem = Memory.writeBytes s.mem dst
      ((List.range (s.inBoundsCount dst n)).map (fun k => Config.freeByte s.freeTick (dst + k))) := by
  obtain ⟨-, -, -, h4, -, -, -⟩ := State.foldl_freeReg_frame scratch (s.freeBytes dst (s.inBoundsCount dst n))
  exact h4

/-- Outside the in-bounds part of its destination range, a macro-op that traps leaves memory as before (R255). -/
theorem State.macroTrap_read_outside (s : State) (dst n : Nat) (scratch : List Reg) (c : Trap) (y : Nat)
    (h : ¬ (dst ≤ y ∧ y < dst + n ∧ y < s.cfg.memSize)) :
    Memory.read (s.macroTrap dst n scratch c).mem y = Memory.read s.mem y := by
  rw [State.macroTrap_mem, Memory.read_writeBytes_outside]
  simp only [List.length_map, List.length_range, State.inBoundsCount]
  omega

/-! ### The copy loop of LDIR -/

/-- Ranges that do not overlap upwards: the destination ends up holding the source's old bytes (R254). -/
theorem Memory.read_copyUp (m : Memory) (src dst n y : Nat) (h : dst ≤ src ∨ src + n ≤ dst) :
    Memory.read (Memory.copyUp m src dst n) y =
      if dst ≤ y ∧ y < dst + n then Memory.read m (src + (y - dst)) else Memory.read m y := by
  induction n generalizing m src dst with
  | zero =>
    have : ¬ (dst ≤ y ∧ y < dst + 0) := by omega
    rw [if_neg this]
    rfl
  | succ n ih =>
    rw [Memory.copyUp, ih _ _ _ (by omega)]
    by_cases hin : dst + 1 ≤ y ∧ y < dst + 1 + n
    · have h1 : dst ≤ y ∧ y < dst + (n + 1) := by omega
      have h2 : src + 1 + (y - (dst + 1)) = src + (y - dst) := by omega
      have h3 : src + (y - dst) ≠ dst := by omega
      rw [if_pos hin, if_pos h1, h2, Memory.read_write, if_neg h3]
    · by_cases hy : y = dst
      · subst hy
        have h1 : y ≤ y ∧ y < y + (n + 1) := by omega
        rw [if_neg hin, if_pos h1, Memory.read_write, if_pos rfl, Nat.sub_self, Nat.add_zero]
      · have h1 : ¬ (dst ≤ y ∧ y < dst + (n + 1)) := by omega
        rw [if_neg hin, if_neg h1, Memory.read_write, if_neg hy]

end Sys2Proof.Machine
end

