-- ==== Sys2Proof/Laws/Exec.lean ====
section
/-! SUPPORT. The inversion of `exec` and of `step`: once, every way an instruction can go to a next state. A claim about all
instructions is one case analysis over these ways. -/

namespace Sys2Proof.Machine

/-- The ways an instruction goes from one state to the next. -/
inductive Effect (i : Instr) (s : State) : State → Prop where
  /-- It writes one register (R15). -/
  | writes (rd : Reg) (v : Word) : Effect i s ((s.setReg rd v).advance i.len)
  /-- `CP` writes the compare register (R192). -/
  | compares (h : isCp i = true) (v : Word32) : Effect i s ((s.setCmp v).advance i.len)
  /-- `DROP` advances (R252). -/
  | drops (h : i = .drop) : Effect i s (s.advance i.len)
  /-- A store writes bytes in bounds (R220). -/
  | stores (h : isStore i = true) (x : Nat) (bs : List Byte) (hx : x + bs.length ≤ s.cfg.memSize) :
      Effect i s ((s.setMem (Memory.writeBytes s.mem x bs)).advance i.len)
  /-- `JR` jumps (R240). -/
  | jumps (h : isJr i = true) (disp : Int) : Effect i s (s.setPc (s.jrTarget i.len disp))
  /-- `JR` falls through (R240). -/
  | fallsThrough (h : isJr i = true) : Effect i s (s.advance i.len)
  /-- `CALL` pushes and goes (R244). -/
  | calls (h : isCall i = true) (hf : s.callStackFull = false) (target : Word) :
      Effect i s ((s.push (s.nextPc i.len)).setPc target)
  /-- `RET` pops and goes (R245). -/
  | returns (h : i = .ret) (ret : Word) (rest : List Word) (hrs : s.rs = ret :: rest) :
      Effect i s ((s.setRs rest).setPc ret)
  /-- `RET` halts (R245). -/
  | halts (h : i = .ret) (hrs : s.rs = []) : Effect i s s.halt
  /-- A division traps on a zero divisor (R303). -/
  | dividesByZero (h : isDivision i = true) : Effect i s (s.raise .divideByZero)
  /-- A signed division traps on the quotient that does not fit (R304). -/
  | overflows (h : isSignedDivision i = true) : Effect i s (s.raise .integerOverflow)
  /-- A load or store traps out of bounds (R305). -/
  | outOfBounds (h : isLoad i = true ∨ isStore i = true) (addr : Int) (n : Nat) (hb : s.inBounds addr n = false) :
      Effect i s (s.raise (.memoryBounds addr n))
  /-- `CALL` traps on a full return stack (R307). -/
  | callStackFull (h : isCall i = true) (hf : s.callStackFull = true) : Effect i s (s.raise .callStackOverflow)
  /-- `FILL` completes (R253). -/
  | fills (h : isMacroOp i = true) (x : Nat) (bs : List Byte) (hx : x + bs.length ≤ s.cfg.memSize) :
      Effect i s ((s.setMem (Memory.writeBytes s.mem x bs)).macroEnd [.hl, .bc])
  /-- `LDIR` completes (R254). -/
  | copies (h : isMacroOp i = true) (src x n : Nat) (hx : x + n ≤ s.cfg.memSize) :
      Effect i s ((s.setMem (Memory.copyUp s.mem src x n)).macroEnd [.hl, .de, .bc])
  /-- A macro-op traps out of bounds (R255). -/
  | macroOutOfBounds (h : isMacroOp i = true) (addr : Int) (hb : s.inBounds addr (s.reg .bc).toNat = false) :
      Effect i s (s.macroTrap (s.reg (macroDest i)).toNat (s.reg .bc).toNat (macroScratch i)
        (.memoryBounds addr (s.reg .bc).toNat))

theorem effect_of_write {i : Instr} {rd : Reg} {v : Word} {s t : State} (h : writeAndAdvance rd v i.len s = .next t) :
    Effect i s t := by
  cases h
  exact .writes rd v

theorem effect_of_load {i : Instr} {n : Nat} {ext : BitVec (8 * n) → Word} {rd rs1 : Reg} {imm : BitVec 12} {s t : State}
    (hi : isLoad i = true) (hl : i.len = 1) (h : loadReg n ext rd rs1 imm s = .next t) : Effect i s t := by
  rcases loadReg_cases h with ⟨v, -, rfl⟩ | ⟨hb, rfl⟩
  · exact hl ▸ .writes rd (ext v)
  · exact .outOfBounds (.inl hi) _ _ hb

theorem effect_of_store {i : Instr} {n : Nat} {rs1 rs2 : Reg} {imm : BitVec 12} {s t : State}
    (hi : isStore i = true) (hl : i.len = 1) (h : storeReg n rs1 rs2 imm s = .next t) : Effect i s t := by
  rcases storeReg_cases h with ⟨hb, rfl⟩ | ⟨hb, rfl⟩
  · refine hl ▸ .stores hi _ _ ?_
    have := (State.inBounds_iff s _ n).mp hb
    rw [leBytes_length]
    omega
  · exact .outOfBounds (.inr hi) _ _ hb

/-- A division whose only traps are those of R303 and, when signed, R304. -/
theorem effect_of_division {i : Instr} {rd : Reg} {r : Except Trap Word} {s t : State} (hi : isDivision i = true)
    (hl : i.len = 1) (hr : ∀ c, r = .error c → c = .divideByZero ∨ (c = .integerOverflow ∧ isSignedDivision i = true))
    (h : writeOrTrap rd r s = .next t) : Effect i s t := by
  rcases writeOrTrap_cases h with ⟨v, -, rfl⟩ | ⟨c, hc, rfl⟩
  · exact hl ▸ .writes rd v
  · rcases hr c hc with rfl | ⟨rfl, hs⟩
    · exact .dividesByZero hi
    · exact .overflows hs

theorem divSigned_error {w : Nat} {a b : BitVec w} {c : Trap} (h : divSigned a b = .error c) :
    c = .divideByZero ∨ c = .integerOverflow := by
  unfold divSigned at h
  split at h
  · exact .inl (by simpa using h.symm)
  · split at h
    · exact .inr (by simpa using h.symm)
    · cases h

theorem divUnsigned_error {w : Nat} {a b : BitVec w} {c : Trap} (h : divUnsigned a b = .error c) : c = .divideByZero := by
  unfold divUnsigned at h
  split at h
  · simpa using h.symm
  · cases h

theorem remSigned_error {w : Nat} {a b : BitVec w} {c : Trap} (h : remSigned a b = .error c) : c = .divideByZero := by
  unfold remSigned at h
  split at h
  · simpa using h.symm
  · cases h

theorem remUnsigned_error {w : Nat} {a b : BitVec w} {c : Trap} (h : remUnsigned a b = .error c) : c = .divideByZero := by
  unfold remUnsigned at h
  split at h
  · simpa using h.symm
  · cases h

theorem map_error {α β : Type} {r : Except Trap α} {f : α → β} {c : Trap} (h : r.map f = .error c) : r = .error c := by
  cases r with
  | ok a => cases h
  | error d => simpa [Except.map] using h

theorem effect_of_compare {i : Instr} {rd : Reg} {imm : Word} {s t : State} (hi : isCp i = true)
    (h : compareWith rd imm i.len s = .next t) : Effect i s t := by
  cases h
  exact .compares hi _

theorem effect_of_jump {i : Instr} {cc : Cond} {disp : Int} {s t : State} (hi : isJr i = true)
    (h : jumpRelative cc disp i.len s = .next t) : Effect i s t := by
  rcases jumpRelative_cases h with ⟨-, rfl⟩ | ⟨-, rfl⟩
  · exact .jumps hi disp
  · exact .fallsThrough hi

theorem effect_of_call {i : Instr} {target : Word} {s t : State} (hi : isCall i = true)
    (h : callAbsolute target i.len s = .next t) : Effect i s t := by
  rcases callAbsolute_cases h with ⟨hf, rfl⟩ | ⟨hf, rfl⟩
  · exact .callStackFull hi hf
  · exact .calls hi hf target

theorem execRet_effect {s t : State} (h : execRet s = .next t) : Effect .ret s t := by
  unfold execRet at h
  split at h
  next hrs =>
    cases h
    exact .halts rfl hrs
  next ret rest hrs =>
    cases h
    exact .returns rfl ret rest hrs

theorem execFill_effect {s t : State} (h : execFill s = .next t) : Effect .fill s t := by
  simp only [execFill] at h
  split at h
  next hb =>
    cases h
    refine .macroOutOfBounds rfl _ ?_
    rw [Bool.eq_false_iff, ne_eq, State.inBounds_iff]
    omega
  next hb =>
    cases h
    refine .fills rfl _ _ ?_
    rw [List.length_replicate]
    omega

theorem execLdir_effect {s t : State} (h : execLdir s = .next t) : Effect .ldir s t := by
  simp only [execLdir] at h
  split at h
  next hb =>
    cases h
    refine .macroOutOfBounds rfl _ ?_
    rw [Bool.eq_false_iff, ne_eq, State.inBounds_iff]
    omega
  next =>
  split at h
  next hb =>
    cases h
    refine .macroOutOfBounds rfl _ ?_
    rw [Bool.eq_false_iff, ne_eq, State.inBounds_iff]
    omega
  next hb =>
    cases h
    exact .copies rfl _ _ _ (by omega)

/-- Every next state of an instruction is reached in one of the ways of `Effect`. -/
theorem exec_effect {i : Instr} {s t : State} (h : exec i s = .next t) : Effect i s t := by
  cases i
  case ret => exact execRet_effect h
  case fill => exact execFill_effect h
  case ldir => exact execLdir_effect h
  case drop =>
    cases h
    exact .drops rfl
  case divs => exact effect_of_division rfl rfl (fun c hc => (divSigned_error (map_error hc)).imp_right (⟨·, rfl⟩)) h
  case divs64 => exact effect_of_division rfl rfl (fun c hc => (divSigned_error hc).imp_right (⟨·, rfl⟩)) h
  case divu => exact effect_of_division rfl rfl (fun c hc => .inl (divUnsigned_error (map_error hc))) h
  case divu64 => exact effect_of_division rfl rfl (fun c hc => .inl (divUnsigned_error hc)) h
  case rems => exact effect_of_division rfl rfl (fun c hc => .inl (remSigned_error (map_error hc))) h
  case rems64 => exact effect_of_division rfl rfl (fun c hc => .inl (remSigned_error hc)) h
  case remu => exact effect_of_division rfl rfl (fun c hc => .inl (remUnsigned_error (map_error hc))) h
  case remu64 => exact effect_of_division rfl rfl (fun c hc => .inl (remUnsigned_error hc)) h
  all_goals first
    | exact effect_of_write h
    | exact effect_of_load rfl rfl h
    | exact effect_of_store rfl rfl h
    | exact effect_of_compare rfl h
    | exact effect_of_jump rfl h
    | exact effect_of_call rfl h

/-! ### One step -/

/-- Fetch answers an instruction exactly when the program counter addresses a base word and the decoder accepts the words
from there on (R42). -/
theorem State.fetch_ok_iff (s : State) (i : Instr) :
    s.fetch = .ok i ↔ s.fetchFaults = false ∧ decode s.cfg.extScheme s.codeAtPc = .ok i := by
  unfold State.fetch
  by_cases hf : s.fetchFaults = true
  · simp [hf]
  · rw [if_neg hf]
    have hf : s.fetchFaults = false := by simpa using hf
    cases hd : decode s.cfg.extScheme s.codeAtPc <;> simp [hf]

/-- The two traps of a fetch (R302, R306). -/
theorem State.fetch_error_cases {s : State} {c : Trap} (h : s.fetch = .error c) :
    (s.fetchFaults = true ∧ c = .fetchFault s.pc) ∨
      (s.fetchFaults = false ∧ (∃ r, decode s.cfg.extScheme s.codeAtPc = .error r) ∧
        c = .illegalInstruction (s.codeAtPc.headD 0#32)) := by
  unfold State.fetch at h
  by_cases hf : s.fetchFaults = true
  · rw [if_pos hf] at h
    exact .inl ⟨hf, by simpa using h.symm⟩
  · rw [if_neg hf] at h
    have hf : s.fetchFaults = false := by simpa using hf
    cases hd : decode s.cfg.extScheme s.codeAtPc with
    | ok i => simp [hd] at h
    | error r => exact .inr ⟨hf, ⟨r, rfl⟩, by simpa [hd] using h.symm⟩

/-- A next state of a step comes from a running state: a trap of the fetch, or the fetched instruction's own next state. -/
theorem step_cases {s t : State} (h : step s = .next t) :
    s.status = .running ∧ ((∃ c, s.fetch = .error c ∧ t = s.raise c) ∨ (∃ i, s.fetch = .ok i ∧ exec i s = .next t)) := by
  unfold step at h
  split at h
  · cases h
  · cases h
  next hr =>
  refine ⟨hr, ?_⟩
  split at h
  next c hc => exact .inl ⟨c, hc, by simpa using h.symm⟩
  next i hi => exact .inr ⟨i, hi, h⟩

/-- The fetch does not fault exactly when the program counter addresses a base word of the image (R42). -/
theorem State.fetchFaults_eq_false_iff (s : State) : s.fetchFaults = false ↔ FetchesInImage s := by
  simp only [State.fetchFaults, FetchesInImage, Bool.or_eq_false_iff, decide_eq_false_iff_not, not_not, not_lt, not_le]
  rw [and_assoc]
  rfl

/-- Where the fetch does not fault there is a base word. -/
theorem State.codeAtPc_eq_cons {s : State} (h : s.fetchFaults = false) :
    s.codeAtPc = s.codeAtPc.headD 0#32 :: s.codeAtPc.tail := by
  obtain ⟨-, h1, h2⟩ := (State.fetchFaults_eq_false_iff s).mp h
  have hlen : s.codeAtPc.length ≠ 0 := by
    simp only [State.codeAtPc, State.wordIndex, List.length_drop]
    omega
  cases hc : s.codeAtPc with
  | nil => simp [hc] at hlen
  | cons w ws => rfl

/-- A fetch that does not fault is aligned (R42). -/
theorem State.aligned_of_fetch {s : State} (h : s.fetchFaults = false) : s.pc.toNat % 4 = 0 := by
  simp only [State.fetchFaults, Bool.or_eq_false_iff, decide_eq_false_iff_not, not_not] at h
  exact h.1.1

end Sys2Proof.Machine
end

