-- ==== Sys2Proof/Laws/PerInstr.lean ====
section
/-! SUPPORT. The per-instruction family EncodesLegally: the base word of every instruction is one a row of the table of encodings
accepts, and its encoding is as long as that row says (R53, R57, R58, R64, R65, R76). -/

namespace Sys2Proof.Laws

/-- A row of the table of encodings accepts the instruction's base word and gives the length of its encoding. -/
def EncodesLegally.Statement (i : Instr) : Prop :=
  ∃ row ∈ encodingTable, row.accepts i.fields = true ∧ row.words = i.len ∧ (encode i).length = row.words

/-- A register field is accepted. -/
theorem register_accepts (r : Reg) : FieldRule.register.accepts r.index = true := by
  simpa [FieldRule.accepts] using r.index_toNat_le

/-- A condition field is accepted. -/
theorem condition_accepts (c : Cond) : FieldRule.condition.accepts c.code = true := by
  simpa [FieldRule.accepts] using c.code_toNat_le

/-- The family's statement from the row, field by field. -/
theorem encodesLegally_of_row {i : Instr} (row : EncodingRow) (hm : row ∈ encodingTable) (hop : i.fields.op = row.op)
    (hrd : row.rd.accepts i.fields.rd = true) (hrs1 : row.rs1.accepts i.fields.rs1 = true)
    (hrs2 : row.rs2.accepts i.fields.rs2 = true) (himm : (row.immFree || i.fields.imm == 0#12) = true)
    (hw : row.words = i.len) : EncodesLegally.Statement i :=
  ⟨row, hm, by simp [EncodingRow.accepts, hop, hrd, hrs1, hrs2, himm], hw, by rw [encode_length, hw]⟩

theorem EncodesLegally.call (imm : BitVec 12) : EncodesLegally.Statement (.call imm) :=
  encodesLegally_of_row ⟨0x00, .exactly 0, .exactly 0, .exactly 0, true, 1⟩ (by decide)
    rfl rfl rfl rfl rfl rfl
theorem EncodesLegally.callX32 (imm : Word32) : EncodesLegally.Statement (.callX32 imm) :=
  encodesLegally_of_row ⟨0x00, .exactly 0, .exactly 0, .exactly 1, false, 2⟩ (by decide)
    rfl rfl rfl rfl rfl rfl
theorem EncodesLegally.callX64 (imm : Word) : EncodesLegally.Statement (.callX64 imm) :=
  encodesLegally_of_row ⟨0x00, .exactly 0, .exactly 0, .exactly 2, false, 3⟩ (by decide)
    rfl rfl rfl rfl rfl rfl
theorem EncodesLegally.ret : EncodesLegally.Statement (.ret) :=
  encodesLegally_of_row ⟨0x01, .exactly 0, .exactly 0, .exactly 0, false, 1⟩ (by decide)
    rfl rfl rfl rfl rfl rfl
theorem EncodesLegally.jr (cc : Cond) (imm : BitVec 12) : EncodesLegally.Statement (.jr cc imm) :=
  encodesLegally_of_row ⟨0x02, .exactly 0, .condition, .exactly 0, true, 1⟩ (by decide)
    rfl rfl (condition_accepts cc) rfl rfl rfl
theorem EncodesLegally.jrX32 (cc : Cond) (imm : Word32) : EncodesLegally.Statement (.jrX32 cc imm) :=
  encodesLegally_of_row ⟨0x02, .exactly 0, .condition, .exactly 1, false, 2⟩ (by decide)
    rfl rfl (condition_accepts cc) rfl rfl rfl
theorem EncodesLegally.cp (rd : Reg) (imm : BitVec 12) : EncodesLegally.Statement (.cp rd imm) :=
  encodesLegally_of_row ⟨0x03, .register, .exactly 0, .exactly 0, true, 1⟩ (by decide)
    rfl (register_accepts rd) rfl rfl rfl rfl
theorem EncodesLegally.cpX32 (rd : Reg) (imm : Word32) : EncodesLegally.Statement (.cpX32 rd imm) :=
  encodesLegally_of_row ⟨0x03, .register, .exactly 0, .exactly 1, false, 2⟩ (by decide)
    rfl (register_accepts rd) rfl rfl rfl rfl
theorem EncodesLegally.drop : EncodesLegally.Statement (.drop) :=
  encodesLegally_of_row ⟨0x04, .exactly 0, .exactly 0, .exactly 0, false, 1⟩ (by decide)
    rfl rfl rfl rfl rfl rfl
theorem EncodesLegally.inc (rd : Reg) : EncodesLegally.Statement (.inc rd) :=
  encodesLegally_of_row ⟨0x05, .register, .exactly 0, .exactly 0, false, 1⟩ (by decide)
    rfl (register_accepts rd) rfl rfl rfl rfl
theorem EncodesLegally.dec (rd : Reg) : EncodesLegally.Statement (.dec rd) :=
  encodesLegally_of_row ⟨0x06, .register, .exactly 0, .exactly 0, false, 1⟩ (by decide)
    rfl (register_accepts rd) rfl rfl rfl rfl
theorem EncodesLegally.add (rd rs1 rs2 : Reg) : EncodesLegally.Statement (.add rd rs1 rs2) :=
  encodesLegally_of_row ⟨0x10, .register, .register, .register, false, 1⟩ (by decide)
    rfl (register_accepts rd) (register_accepts rs1) (register_accepts rs2) rfl rfl
theorem EncodesLegally.sub (rd rs1 rs2 : Reg) : EncodesLegally.Statement (.sub rd rs1 rs2) :=
  encodesLegally_of_row ⟨0x11, .register, .register, .register, false, 1⟩ (by decide)
    rfl (register_accepts rd) (register_accepts rs1) (register_accepts rs2) rfl rfl
theorem EncodesLegally.mul (rd rs1 rs2 : Reg) : EncodesLegally.Statement (.mul rd rs1 rs2) :=
  encodesLegally_of_row ⟨0x12, .register, .register, .register, false, 1⟩ (by decide)
    rfl (register_accepts rd) (register_accepts rs1) (register_accepts rs2) rfl rfl
theorem EncodesLegally.divs (rd rs1 rs2 : Reg) : EncodesLegally.Statement (.divs rd rs1 rs2) :=
  encodesLegally_of_row ⟨0x13, .register, .register, .register, false, 1⟩ (by decide)
    rfl (register_accepts rd) (register_accepts rs1) (register_accepts rs2) rfl rfl
theorem EncodesLegally.divu (rd rs1 rs2 : Reg) : EncodesLegally.Statement (.divu rd rs1 rs2) :=
  encodesLegally_of_row ⟨0x14, .register, .register, .register, false, 1⟩ (by decide)
    rfl (register_accepts rd) (register_accepts rs1) (register_accepts rs2) rfl rfl
theorem EncodesLegally.rems (rd rs1 rs2 : Reg) : EncodesLegally.Statement (.rems rd rs1 rs2) :=
  encodesLegally_of_row ⟨0x15, .register, .register, .register, false, 1⟩ (by decide)
    rfl (register_accepts rd) (register_accepts rs1) (register_accepts rs2) rfl rfl
theorem EncodesLegally.remu (rd rs1 rs2 : Reg) : EncodesLegally.Statement (.remu rd rs1 rs2) :=
  encodesLegally_of_row ⟨0x16, .register, .register, .register, false, 1⟩ (by decide)
    rfl (register_accepts rd) (register_accepts rs1) (register_accepts rs2) rfl rfl
theorem EncodesLegally.and (rd rs1 rs2 : Reg) : EncodesLegally.Statement (.and rd rs1 rs2) :=
  encodesLegally_of_row ⟨0x17, .register, .register, .register, false, 1⟩ (by decide)
    rfl (register_accepts rd) (register_accepts rs1) (register_accepts rs2) rfl rfl
theorem EncodesLegally.or (rd rs1 rs2 : Reg) : EncodesLegally.Statement (.or rd rs1 rs2) :=
  encodesLegally_of_row ⟨0x18, .register, .register, .register, false, 1⟩ (by decide)
    rfl (register_accepts rd) (register_accepts rs1) (register_accepts rs2) rfl rfl
theorem EncodesLegally.xor (rd rs1 rs2 : Reg) : EncodesLegally.Statement (.xor rd rs1 rs2) :=
  encodesLegally_of_row ⟨0x19, .register, .register, .register, false, 1⟩ (by decide)
    rfl (register_accepts rd) (register_accepts rs1) (register_accepts rs2) rfl rfl
theorem EncodesLegally.add64 (rd rs1 rs2 : Reg) : EncodesLegally.Statement (.add64 rd rs1 rs2) :=
  encodesLegally_of_row ⟨0x20, .register, .register, .register, false, 1⟩ (by decide)
    rfl (register_accepts rd) (register_accepts rs1) (register_accepts rs2) rfl rfl
theorem EncodesLegally.sub64 (rd rs1 rs2 : Reg) : EncodesLegally.Statement (.sub64 rd rs1 rs2) :=
  encodesLegally_of_row ⟨0x21, .register, .register, .register, false, 1⟩ (by decide)
    rfl (register_accepts rd) (register_accepts rs1) (register_accepts rs2) rfl rfl
theorem EncodesLegally.mul64 (rd rs1 rs2 : Reg) : EncodesLegally.Statement (.mul64 rd rs1 rs2) :=
  encodesLegally_of_row ⟨0x22, .register, .register, .register, false, 1⟩ (by decide)
    rfl (register_accepts rd) (register_accepts rs1) (register_accepts rs2) rfl rfl
theorem EncodesLegally.divs64 (rd rs1 rs2 : Reg) : EncodesLegally.Statement (.divs64 rd rs1 rs2) :=
  encodesLegally_of_row ⟨0x23, .register, .register, .register, false, 1⟩ (by decide)
    rfl (register_accepts rd) (register_accepts rs1) (register_accepts rs2) rfl rfl
theorem EncodesLegally.divu64 (rd rs1 rs2 : Reg) : EncodesLegally.Statement (.divu64 rd rs1 rs2) :=
  encodesLegally_of_row ⟨0x24, .register, .register, .register, false, 1⟩ (by decide)
    rfl (register_accepts rd) (register_accepts rs1) (register_accepts rs2) rfl rfl
theorem EncodesLegally.rems64 (rd rs1 rs2 : Reg) : EncodesLegally.Statement (.rems64 rd rs1 rs2) :=
  encodesLegally_of_row ⟨0x25, .register, .register, .register, false, 1⟩ (by decide)
    rfl (register_accepts rd) (register_accepts rs1) (register_accepts rs2) rfl rfl
theorem EncodesLegally.remu64 (rd rs1 rs2 : Reg) : EncodesLegally.Statement (.remu64 rd rs1 rs2) :=
  encodesLegally_of_row ⟨0x26, .register, .register, .register, false, 1⟩ (by decide)
    rfl (register_accepts rd) (register_accepts rs1) (register_accepts rs2) rfl rfl
theorem EncodesLegally.and64 (rd rs1 rs2 : Reg) : EncodesLegally.Statement (.and64 rd rs1 rs2) :=
  encodesLegally_of_row ⟨0x27, .register, .register, .register, false, 1⟩ (by decide)
    rfl (register_accepts rd) (register_accepts rs1) (register_accepts rs2) rfl rfl
theorem EncodesLegally.or64 (rd rs1 rs2 : Reg) : EncodesLegally.Statement (.or64 rd rs1 rs2) :=
  encodesLegally_of_row ⟨0x28, .register, .register, .register, false, 1⟩ (by decide)
    rfl (register_accepts rd) (register_accepts rs1) (register_accepts rs2) rfl rfl
theorem EncodesLegally.xor64 (rd rs1 rs2 : Reg) : EncodesLegally.Statement (.xor64 rd rs1 rs2) :=
  encodesLegally_of_row ⟨0x29, .register, .register, .register, false, 1⟩ (by decide)
    rfl (register_accepts rd) (register_accepts rs1) (register_accepts rs2) rfl rfl
theorem EncodesLegally.sla (rd rs1 : Reg) (imm : BitVec 12) : EncodesLegally.Statement (.sla rd rs1 imm) :=
  encodesLegally_of_row ⟨0x30, .register, .register, .exactly 0, true, 1⟩ (by decide)
    rfl (register_accepts rd) (register_accepts rs1) rfl rfl rfl
theorem EncodesLegally.sra (rd rs1 : Reg) (imm : BitVec 12) : EncodesLegally.Statement (.sra rd rs1 imm) :=
  encodesLegally_of_row ⟨0x31, .register, .register, .exactly 0, true, 1⟩ (by decide)
    rfl (register_accepts rd) (register_accepts rs1) rfl rfl rfl
theorem EncodesLegally.srl (rd rs1 : Reg) (imm : BitVec 12) : EncodesLegally.Statement (.srl rd rs1 imm) :=
  encodesLegally_of_row ⟨0x32, .register, .register, .exactly 0, true, 1⟩ (by decide)
    rfl (register_accepts rd) (register_accepts rs1) rfl rfl rfl
theorem EncodesLegally.rol (rd rs1 : Reg) (imm : BitVec 12) : EncodesLegally.Statement (.rol rd rs1 imm) :=
  encodesLegally_of_row ⟨0x33, .register, .register, .exactly 0, true, 1⟩ (by decide)
    rfl (register_accepts rd) (register_accepts rs1) rfl rfl rfl
theorem EncodesLegally.ror (rd rs1 : Reg) (imm : BitVec 12) : EncodesLegally.Statement (.ror rd rs1 imm) :=
  encodesLegally_of_row ⟨0x34, .register, .register, .exactly 0, true, 1⟩ (by decide)
    rfl (register_accepts rd) (register_accepts rs1) rfl rfl rfl
theorem EncodesLegally.clz (rd : Reg) : EncodesLegally.Statement (.clz rd) :=
  encodesLegally_of_row ⟨0x35, .register, .exactly 0, .exactly 0, false, 1⟩ (by decide)
    rfl (register_accepts rd) rfl rfl rfl rfl
theorem EncodesLegally.ctz (rd : Reg) : EncodesLegally.Statement (.ctz rd) :=
  encodesLegally_of_row ⟨0x36, .register, .exactly 0, .exactly 0, false, 1⟩ (by decide)
    rfl (register_accepts rd) rfl rfl rfl rfl
theorem EncodesLegally.popc (rd : Reg) : EncodesLegally.Statement (.popc rd) :=
  encodesLegally_of_row ⟨0x37, .register, .exactly 0, .exactly 0, false, 1⟩ (by decide)
    rfl (register_accepts rd) rfl rfl rfl rfl
theorem EncodesLegally.sla64 (rd rs1 : Reg) (imm : BitVec 12) : EncodesLegally.Statement (.sla64 rd rs1 imm) :=
  encodesLegally_of_row ⟨0x40, .register, .register, .exactly 0, true, 1⟩ (by decide)
    rfl (register_accepts rd) (register_accepts rs1) rfl rfl rfl
theorem EncodesLegally.sra64 (rd rs1 : Reg) (imm : BitVec 12) : EncodesLegally.Statement (.sra64 rd rs1 imm) :=
  encodesLegally_of_row ⟨0x41, .register, .register, .exactly 0, true, 1⟩ (by decide)
    rfl (register_accepts rd) (register_accepts rs1) rfl rfl rfl
theorem EncodesLegally.srl64 (rd rs1 : Reg) (imm : BitVec 12) : EncodesLegally.Statement (.srl64 rd rs1 imm) :=
  encodesLegally_of_row ⟨0x42, .register, .register, .exactly 0, true, 1⟩ (by decide)
    rfl (register_accepts rd) (register_accepts rs1) rfl rfl rfl
theorem EncodesLegally.rol64 (rd rs1 : Reg) (imm : BitVec 12) : EncodesLegally.Statement (.rol64 rd rs1 imm) :=
  encodesLegally_of_row ⟨0x43, .register, .register, .exactly 0, true, 1⟩ (by decide)
    rfl (register_accepts rd) (register_accepts rs1) rfl rfl rfl
theorem EncodesLegally.ror64 (rd rs1 : Reg) (imm : BitVec 12) : EncodesLegally.Statement (.ror64 rd rs1 imm) :=
  encodesLegally_of_row ⟨0x44, .register, .register, .exactly 0, true, 1⟩ (by decide)
    rfl (register_accepts rd) (register_accepts rs1) rfl rfl rfl
theorem EncodesLegally.clz64 (rd : Reg) : EncodesLegally.Statement (.clz64 rd) :=
  encodesLegally_of_row ⟨0x45, .register, .exactly 0, .exactly 0, false, 1⟩ (by decide)
    rfl (register_accepts rd) rfl rfl rfl rfl
theorem EncodesLegally.ctz64 (rd : Reg) : EncodesLegally.Statement (.ctz64 rd) :=
  encodesLegally_of_row ⟨0x46, .register, .exactly 0, .exactly 0, false, 1⟩ (by decide)
    rfl (register_accepts rd) rfl rfl rfl rfl
theorem EncodesLegally.popc64 (rd : Reg) : EncodesLegally.Statement (.popc64 rd) :=
  encodesLegally_of_row ⟨0x47, .register, .exactly 0, .exactly 0, false, 1⟩ (by decide)
    rfl (register_accepts rd) rfl rfl rfl rfl
theorem EncodesLegally.eq (rd : Reg) : EncodesLegally.Statement (.eq rd) :=
  encodesLegally_of_row ⟨0x50, .register, .exactly 0, .exactly 0, false, 1⟩ (by decide)
    rfl (register_accepts rd) rfl rfl rfl rfl
theorem EncodesLegally.ne (rd : Reg) : EncodesLegally.Statement (.ne rd) :=
  encodesLegally_of_row ⟨0x51, .register, .exactly 0, .exactly 0, false, 1⟩ (by decide)
    rfl (register_accepts rd) rfl rfl rfl rfl
theorem EncodesLegally.lts (rd : Reg) : EncodesLegally.Statement (.lts rd) :=
  encodesLegally_of_row ⟨0x52, .register, .exactly 0, .exactly 0, false, 1⟩ (by decide)
    rfl (register_accepts rd) rfl rfl rfl rfl
theorem EncodesLegally.les (rd : Reg) : EncodesLegally.Statement (.les rd) :=
  encodesLegally_of_row ⟨0x53, .register, .exactly 0, .exactly 0, false, 1⟩ (by decide)
    rfl (register_accepts rd) rfl rfl rfl rfl
theorem EncodesLegally.gts (rd : Reg) : EncodesLegally.Statement (.gts rd) :=
  encodesLegally_of_row ⟨0x54, .register, .exactly 0, .exactly 0, false, 1⟩ (by decide)
    rfl (register_accepts rd) rfl rfl rfl rfl
theorem EncodesLegally.ges (rd : Reg) : EncodesLegally.Statement (.ges rd) :=
  encodesLegally_of_row ⟨0x55, .register, .exactly 0, .exactly 0, false, 1⟩ (by decide)
    rfl (register_accepts rd) rfl rfl rfl rfl
theorem EncodesLegally.ltu (rd : Reg) : EncodesLegally.Statement (.ltu rd) :=
  encodesLegally_of_row ⟨0x56, .register, .exactly 0, .exactly 0, false, 1⟩ (by decide)
    rfl (register_accepts rd) rfl rfl rfl rfl
theorem EncodesLegally.leu (rd : Reg) : EncodesLegally.Statement (.leu rd) :=
  encodesLegally_of_row ⟨0x57, .register, .exactly 0, .exactly 0, false, 1⟩ (by decide)
    rfl (register_accepts rd) rfl rfl rfl rfl
theorem EncodesLegally.gtu (rd : Reg) : EncodesLegally.Statement (.gtu rd) :=
  encodesLegally_of_row ⟨0x58, .register, .exactly 0, .exactly 0, false, 1⟩ (by decide)
    rfl (register_accepts rd) rfl rfl rfl rfl
theorem EncodesLegally.geu (rd : Reg) : EncodesLegally.Statement (.geu rd) :=
  encodesLegally_of_row ⟨0x59, .register, .exactly 0, .exactly 0, false, 1⟩ (by decide)
    rfl (register_accepts rd) rfl rfl rfl rfl
theorem EncodesLegally.eq64 (rd : Reg) : EncodesLegally.Statement (.eq64 rd) :=
  encodesLegally_of_row ⟨0x60, .register, .exactly 0, .exactly 0, false, 1⟩ (by decide)
    rfl (register_accepts rd) rfl rfl rfl rfl
theorem EncodesLegally.ne64 (rd : Reg) : EncodesLegally.Statement (.ne64 rd) :=
  encodesLegally_of_row ⟨0x61, .register, .exactly 0, .exactly 0, false, 1⟩ (by decide)
    rfl (register_accepts rd) rfl rfl rfl rfl
theorem EncodesLegally.lts64 (rd : Reg) : EncodesLegally.Statement (.lts64 rd) :=
  encodesLegally_of_row ⟨0x62, .register, .exactly 0, .exactly 0, false, 1⟩ (by decide)
    rfl (register_accepts rd) rfl rfl rfl rfl
theorem EncodesLegally.les64 (rd : Reg) : EncodesLegally.Statement (.les64 rd) :=
  encodesLegally_of_row ⟨0x63, .register, .exactly 0, .exactly 0, false, 1⟩ (by decide)
    rfl (register_accepts rd) rfl rfl rfl rfl
theorem EncodesLegally.gts64 (rd : Reg) : EncodesLegally.Statement (.gts64 rd) :=
  encodesLegally_of_row ⟨0x64, .register, .exactly 0, .exactly 0, false, 1⟩ (by decide)
    rfl (register_accepts rd) rfl rfl rfl rfl
theorem EncodesLegally.ges64 (rd : Reg) : EncodesLegally.Statement (.ges64 rd) :=
  encodesLegally_of_row ⟨0x65, .register, .exactly 0, .exactly 0, false, 1⟩ (by decide)
    rfl (register_accepts rd) rfl rfl rfl rfl
theorem EncodesLegally.ltu64 (rd : Reg) : EncodesLegally.Statement (.ltu64 rd) :=
  encodesLegally_of_row ⟨0x66, .register, .exactly 0, .exactly 0, false, 1⟩ (by decide)
    rfl (register_accepts rd) rfl rfl rfl rfl
theorem EncodesLegally.leu64 (rd : Reg) : EncodesLegally.Statement (.leu64 rd) :=
  encodesLegally_of_row ⟨0x67, .register, .exactly 0, .exactly 0, false, 1⟩ (by decide)
    rfl (register_accepts rd) rfl rfl rfl rfl
theorem EncodesLegally.gtu64 (rd : Reg) : EncodesLegally.Statement (.gtu64 rd) :=
  encodesLegally_of_row ⟨0x68, .register, .exactly 0, .exactly 0, false, 1⟩ (by decide)
    rfl (register_accepts rd) rfl rfl rfl rfl
theorem EncodesLegally.geu64 (rd : Reg) : EncodesLegally.Statement (.geu64 rd) :=
  encodesLegally_of_row ⟨0x69, .register, .exactly 0, .exactly 0, false, 1⟩ (by decide)
    rfl (register_accepts rd) rfl rfl rfl rfl
theorem EncodesLegally.ld (rd : Reg) (imm : BitVec 12) : EncodesLegally.Statement (.ld rd imm) :=
  encodesLegally_of_row ⟨0x70, .register, .exactly 0, .exactly 0, true, 1⟩ (by decide)
    rfl (register_accepts rd) rfl rfl rfl rfl
theorem EncodesLegally.ldX32 (rd : Reg) (imm : Word32) : EncodesLegally.Statement (.ldX32 rd imm) :=
  encodesLegally_of_row ⟨0x70, .register, .exactly 0, .exactly 1, false, 2⟩ (by decide)
    rfl (register_accepts rd) rfl rfl rfl rfl
theorem EncodesLegally.ldX64 (rd : Reg) (imm : Word) : EncodesLegally.Statement (.ldX64 rd imm) :=
  encodesLegally_of_row ⟨0x70, .register, .exactly 0, .exactly 2, false, 3⟩ (by decide)
    rfl (register_accepts rd) rfl rfl rfl rfl
theorem EncodesLegally.ld8u (rd rs1 : Reg) (imm : BitVec 12) : EncodesLegally.Statement (.ld8u rd rs1 imm) :=
  encodesLegally_of_row ⟨0x71, .register, .register, .exactly 0, true, 1⟩ (by decide)
    rfl (register_accepts rd) (register_accepts rs1) rfl rfl rfl
theorem EncodesLegally.ld8s (rd rs1 : Reg) (imm : BitVec 12) : EncodesLegally.Statement (.ld8s rd rs1 imm) :=
  encodesLegally_of_row ⟨0x72, .register, .register, .exactly 0, true, 1⟩ (by decide)
    rfl (register_accepts rd) (register_accepts rs1) rfl rfl rfl
theorem EncodesLegally.ld16u (rd rs1 : Reg) (imm : BitVec 12) : EncodesLegally.Statement (.ld16u rd rs1 imm) :=
  encodesLegally_of_row ⟨0x73, .register, .register, .exactly 0, true, 1⟩ (by decide)
    rfl (register_accepts rd) (register_accepts rs1) rfl rfl rfl
theorem EncodesLegally.ld16s (rd rs1 : Reg) (imm : BitVec 12) : EncodesLegally.Statement (.ld16s rd rs1 imm) :=
  encodesLegally_of_row ⟨0x74, .register, .register, .exactly 0, true, 1⟩ (by decide)
    rfl (register_accepts rd) (register_accepts rs1) rfl rfl rfl
theorem EncodesLegally.ld32 (rd rs1 : Reg) (imm : BitVec 12) : EncodesLegally.Statement (.ld32 rd rs1 imm) :=
  encodesLegally_of_row ⟨0x75, .register, .register, .exactly 0, true, 1⟩ (by decide)
    rfl (register_accepts rd) (register_accepts rs1) rfl rfl rfl
theorem EncodesLegally.ld64 (rd rs1 : Reg) (imm : BitVec 12) : EncodesLegally.Statement (.ld64 rd rs1 imm) :=
  encodesLegally_of_row ⟨0x76, .register, .register, .exactly 0, true, 1⟩ (by decide)
    rfl (register_accepts rd) (register_accepts rs1) rfl rfl rfl
theorem EncodesLegally.ld8u64 (rd rs1 : Reg) (imm : BitVec 12) : EncodesLegally.Statement (.ld8u64 rd rs1 imm) :=
  encodesLegally_of_row ⟨0x77, .register, .register, .exactly 0, true, 1⟩ (by decide)
    rfl (register_accepts rd) (register_accepts rs1) rfl rfl rfl
theorem EncodesLegally.ld8s64 (rd rs1 : Reg) (imm : BitVec 12) : EncodesLegally.Statement (.ld8s64 rd rs1 imm) :=
  encodesLegally_of_row ⟨0x78, .register, .register, .exactly 0, true, 1⟩ (by decide)
    rfl (register_accepts rd) (register_accepts rs1) rfl rfl rfl
theorem EncodesLegally.ld16u64 (rd rs1 : Reg) (imm : BitVec 12) : EncodesLegally.Statement (.ld16u64 rd rs1 imm) :=
  encodesLegally_of_row ⟨0x79, .register, .register, .exactly 0, true, 1⟩ (by decide)
    rfl (register_accepts rd) (register_accepts rs1) rfl rfl rfl
theorem EncodesLegally.ld16s64 (rd rs1 : Reg) (imm : BitVec 12) : EncodesLegally.Statement (.ld16s64 rd rs1 imm) :=
  encodesLegally_of_row ⟨0x7A, .register, .register, .exactly 0, true, 1⟩ (by decide)
    rfl (register_accepts rd) (register_accepts rs1) rfl rfl rfl
theorem EncodesLegally.ld32u64 (rd rs1 : Reg) (imm : BitVec 12) : EncodesLegally.Statement (.ld32u64 rd rs1 imm) :=
  encodesLegally_of_row ⟨0x7B, .register, .register, .exactly 0, true, 1⟩ (by decide)
    rfl (register_accepts rd) (register_accepts rs1) rfl rfl rfl
theorem EncodesLegally.ld32s64 (rd rs1 : Reg) (imm : BitVec 12) : EncodesLegally.Statement (.ld32s64 rd rs1 imm) :=
  encodesLegally_of_row ⟨0x7C, .register, .register, .exactly 0, true, 1⟩ (by decide)
    rfl (register_accepts rd) (register_accepts rs1) rfl rfl rfl
theorem EncodesLegally.st8 (rs1 rs2 : Reg) (imm : BitVec 12) : EncodesLegally.Statement (.st8 rs1 rs2 imm) :=
  encodesLegally_of_row ⟨0x80, .exactly 0, .register, .register, true, 1⟩ (by decide)
    rfl rfl (register_accepts rs1) (register_accepts rs2) rfl rfl
theorem EncodesLegally.st8_64 (rs1 rs2 : Reg) (imm : BitVec 12) : EncodesLegally.Statement (.st8_64 rs1 rs2 imm) :=
  encodesLegally_of_row ⟨0x81, .exactly 0, .register, .register, true, 1⟩ (by decide)
    rfl rfl (register_accepts rs1) (register_accepts rs2) rfl rfl
theorem EncodesLegally.st16 (rs1 rs2 : Reg) (imm : BitVec 12) : EncodesLegally.Statement (.st16 rs1 rs2 imm) :=
  encodesLegally_of_row ⟨0x82, .exactly 0, .register, .register, true, 1⟩ (by decide)
    rfl rfl (register_accepts rs1) (register_accepts rs2) rfl rfl
theorem EncodesLegally.st16_64 (rs1 rs2 : Reg) (imm : BitVec 12) : EncodesLegally.Statement (.st16_64 rs1 rs2 imm) :=
  encodesLegally_of_row ⟨0x83, .exactly 0, .register, .register, true, 1⟩ (by decide)
    rfl rfl (register_accepts rs1) (register_accepts rs2) rfl rfl
theorem EncodesLegally.st32 (rs1 rs2 : Reg) (imm : BitVec 12) : EncodesLegally.Statement (.st32 rs1 rs2 imm) :=
  encodesLegally_of_row ⟨0x84, .exactly 0, .register, .register, true, 1⟩ (by decide)
    rfl rfl (register_accepts rs1) (register_accepts rs2) rfl rfl
theorem EncodesLegally.st32_64 (rs1 rs2 : Reg) (imm : BitVec 12) : EncodesLegally.Statement (.st32_64 rs1 rs2 imm) :=
  encodesLegally_of_row ⟨0x85, .exactly 0, .register, .register, true, 1⟩ (by decide)
    rfl rfl (register_accepts rs1) (register_accepts rs2) rfl rfl
theorem EncodesLegally.st64 (rs1 rs2 : Reg) (imm : BitVec 12) : EncodesLegally.Statement (.st64 rs1 rs2 imm) :=
  encodesLegally_of_row ⟨0x86, .exactly 0, .register, .register, true, 1⟩ (by decide)
    rfl rfl (register_accepts rs1) (register_accepts rs2) rfl rfl
theorem EncodesLegally.ldir : EncodesLegally.Statement (.ldir) :=
  encodesLegally_of_row ⟨0x90, .exactly 1, .exactly 0, .exactly 3, false, 1⟩ (by decide)
    rfl rfl rfl rfl rfl rfl
theorem EncodesLegally.fill : EncodesLegally.Statement (.fill) :=
  encodesLegally_of_row ⟨0x91, .exactly 0, .exactly 2, .exactly 3, false, 1⟩ (by decide)
    rfl rfl rfl rfl rfl rfl

end Sys2Proof.Laws
end

