-- ==== Sys2Proof/Tests/Slice0.lean ====
section
/-! SUPPORT. The model's own tests. Expected values come from spec/95_test_vectors.md and the examples of the rules, or are
worked out by hand from a rule; each theorem says from where. The last part shows, for every obligation with hypotheses, a
concrete state and operands that meet them all. -/

namespace Sys2Proof.Tests

open Sys2Proof.Machine

/-! ### Helpers -/

/-- A running machine at address 0 with these registers, `CMP` 0, nothing in memory and no program. -/
def st (hl de a bc ix : Word) : State := State.start {} [] [] ⟨hl, de, a, bc, ix⟩ 0#32

/-- The low `n` bytes of a number stored from an address up. -/
def bytesAt (x : Nat) (v : Nat) (n : Nat) : Memory :=
  Memory.writeBytes [] x ((List.range n).map (fun k => BitVec.ofNat 8 (v / 256 ^ k)))

/-- The instruction answers a next state, and it is as said. -/
def after (i : Instr) (s : State) (p : State → Bool) : Bool :=
  match exec i s with
  | .next t => p t
  | _ => false

/-- The instruction takes the trap and changes nothing else (R300, R310). -/
def traps (i : Instr) (s : State) (c : Trap) : Bool :=
  after i s (fun t => t == { s with status := .trapped c s.pc })

/-- The program counter after the instruction. -/
def pcAfter (i : Instr) (s : State) : Option Word :=
  match exec i s with
  | .next t => some t.pc
  | _ => none

/-- A step answers a next state, and it is as said. -/
def stepsTo (s : State) (p : State → Bool) : Bool :=
  match step s with
  | .next t => p t
  | _ => false

/-- The words decode to the instruction, it encodes to them, and this is its assembly. -/
def roundTrips (ws : List Word32) (i : Instr) (asm : String) : Bool :=
  (decode .rs2Count ws).toOption == some i && encode i == ws && asmOf i == asm

/-- Why the decoder rejects. -/
def rejectedFor (ws : List Word32) : Option Reject :=
  match decode .rs2Count ws with
  | .ok _ => none
  | .error r => some r

/-- A running machine with these words as its program. -/
def image (ws : List Word32) : State := State.start {} ws [] ⟨0, 0, 0, 0, 0⟩ 0#32

/-! ### Well-formedness: each check refuses an ill-formed term -/

/-- R5: a data memory of `2^63` bytes is refused, one byte less is not. -/
theorem test_wf_mem_size : Config.memSizeOk { memSize := 2 ^ 63 } = false ∧ Config.memSizeOk { memSize := 2 ^ 63 - 1 } = true := by
  decide

/-- R5: a misaligned `PROG_BASE` is refused. -/
theorem test_wf_prog_base : Config.progBaseAligned { progBase := 2#64 } = false ∧ Config.progBaseAligned {} = true := by decide

/-- R5: an image that passes the end of the address space is refused, one that ends there is not. -/
theorem test_wf_image_fits : Config.imageFits { progBase := 0xFFFFFFFFFFFFFFFC#64 } 2 = false ∧
    Config.imageFits { progBase := 0xFFFFFFFFFFFFFFFC#64 } 1 = true := by decide

/-- Each of the three checks alone refuses a set of parameters. -/
theorem test_wf_config : Config.wf { memSize := 2 ^ 63 } 0 = false ∧ Config.wf { progBase := 1#64 } 0 = false ∧
    Config.wf { progBase := 0xFFFFFFFFFFFFFFFC#64 } 2 = false ∧ Config.wf {} 1000 = true := by decide

/-- R65, R76: the three field rules refuse the first value past their range. -/
theorem test_wf_field_rules : (FieldRule.register.accepts 5) = false ∧ (FieldRule.register.accepts 4) = true ∧
    (FieldRule.condition.accepts 11) = false ∧ (FieldRule.condition.accepts 10) = true ∧
    ((FieldRule.exactly 3).accepts 2) = false ∧ ((FieldRule.exactly 3).accepts 3) = true := by decide

/-- A row refuses a wrong opcode, a wrong field and an immediate that must be zero; the table refuses the reserved. -/
theorem test_wf_rows :
    (EncodingRow.accepts ⟨0x10, .register, .register, .register, false, 1⟩ ⟨0x11, 0, 0, 0, 0⟩) = false ∧
    (EncodingRow.accepts ⟨0x10, .register, .register, .register, false, 1⟩ ⟨0x10, 5, 0, 0, 0⟩) = false ∧
    (EncodingRow.accepts ⟨0x10, .register, .register, .register, false, 1⟩ ⟨0x10, 0, 5, 0, 0⟩) = false ∧
    (EncodingRow.accepts ⟨0x10, .register, .register, .register, false, 1⟩ ⟨0x10, 0, 0, 5, 0⟩) = false ∧
    (EncodingRow.accepts ⟨0x10, .register, .register, .register, false, 1⟩ ⟨0x10, 0, 0, 0, 1⟩) = false ∧
    (EncodingRow.accepts ⟨0x10, .register, .register, .register, false, 1⟩ ⟨0x10, 4, 4, 4, 0⟩) = true ∧
    Fields.legal ⟨0x07, 0, 0, 0, 0⟩ = false ∧ Fields.legal ⟨0x02, 0, 11, 0, 0⟩ = false ∧
    Fields.legal ⟨0x90, 0, 1, 3, 0⟩ = false := by decide

/-- R62: the forms longer than the value needs are refused, the shortest is not. -/
theorem test_wf_shortest_form : Instr.shortestForm (.ldX32 .hl 2047) = false ∧ Instr.shortestForm (.ldX32 .hl 2048) = true ∧
    Instr.shortestForm (.ldX64 .hl 2147483647) = false ∧ Instr.shortestForm (.ldX64 .hl 2147483648) = true ∧
    Instr.shortestForm (.cpX32 .hl (-2048)) = false ∧ Instr.shortestForm (.jrX32 .al (-2049)) = true ∧
    Instr.shortestForm (.callX32 0) = false ∧ Instr.shortestForm (.callX64 0) = false := by decide

/-- Two rows of the table of encodings that both accept some base word with the first's field values. -/
def rulesMeet : FieldRule → FieldRule → Bool
  | .exactly v, r => r.accepts v
  | r, .exactly v => r.accepts v
  | _, _ => true

/-- No two rows of the table of encodings accept one base word, and there are 91 of them. -/
theorem test_table_rows_apart : encodingTable.length = 91 ∧ encodingTable.Pairwise (fun r q =>
    (r.op == q.op && rulesMeet r.rd q.rd && rulesMeet r.rs1 q.rs1 && rulesMeet r.rs2 q.rs2) = false) := by decide

/-! ### Encodings -/

/-- spec/95_test_vectors.md 2.1: words, instruction, assembly. -/
theorem test_golden_control : (([
  ([0x00000040#32], .call 0x040#12, "CALL 64"), ([0x01000000#32], .ret, "RET"),
  ([0x02050FFD#32], .jr .gts 0xFFD#12, "JR GTS, -3"), ([0x03100FFF#32], .cp .de 0xFFF#12, "CP DE, -1"),
  ([0x04000000#32], .drop, "DROP"), ([0x05300000#32], .inc .bc, "INC BC"), ([0x06300000#32], .dec .bc, "DEC BC")] :
  List (List Word32 × Instr × String)).all fun r => roundTrips r.1 r.2.1 r.2.2) = true := by decide

/-- spec/95_test_vectors.md 2.1: words, instruction, assembly. -/
theorem test_golden_arith : (([
  ([0x10213000#32], .add .a .de .bc, "ADD A, DE, BC"), ([0x11213000#32], .sub .a .de .bc, "SUB A, DE, BC"),
  ([0x12213000#32], .mul .a .de .bc, "MUL A, DE, BC"), ([0x13213000#32], .divs .a .de .bc, "DIVS A, DE, BC"),
  ([0x14213000#32], .divu .a .de .bc, "DIVU A, DE, BC"), ([0x15213000#32], .rems .a .de .bc, "REMS A, DE, BC"),
  ([0x16213000#32], .remu .a .de .bc, "REMU A, DE, BC"), ([0x17213000#32], .and .a .de .bc, "AND A, DE, BC"),
  ([0x18213000#32], .or .a .de .bc, "OR A, DE, BC"), ([0x19213000#32], .xor .a .de .bc, "XOR A, DE, BC"),
  ([0x20213000#32], .add64 .a .de .bc, "ADD64 A, DE, BC"), ([0x21213000#32], .sub64 .a .de .bc, "SUB64 A, DE, BC"),
  ([0x22213000#32], .mul64 .a .de .bc, "MUL64 A, DE, BC"), ([0x23213000#32], .divs64 .a .de .bc, "DIVS64 A, DE, BC"),
  ([0x24213000#32], .divu64 .a .de .bc, "DIVU64 A, DE, BC"),
  ([0x25213000#32], .rems64 .a .de .bc, "REMS64 A, DE, BC"),
  ([0x26213000#32], .remu64 .a .de .bc, "REMU64 A, DE, BC"), ([0x27213000#32], .and64 .a .de .bc, "AND64 A, DE, BC"),
  ([0x28213000#32], .or64 .a .de .bc, "OR64 A, DE, BC"), ([0x29213000#32], .xor64 .a .de .bc, "XOR64 A, DE, BC")] :
  List (List Word32 × Instr × String)).all fun r => roundTrips r.1 r.2.1 r.2.2) = true := by decide

/-- spec/95_test_vectors.md 2.1: words, instruction, assembly. -/
theorem test_golden_shift : (([
  ([0x30410005#32], .sla .ix .de 0x005#12, "SLA IX, DE, 5"),
  ([0x31410005#32], .sra .ix .de 0x005#12, "SRA IX, DE, 5"),
  ([0x32410005#32], .srl .ix .de 0x005#12, "SRL IX, DE, 5"),
  ([0x33410005#32], .rol .ix .de 0x005#12, "ROL IX, DE, 5"),
  ([0x34410005#32], .ror .ix .de 0x005#12, "ROR IX, DE, 5"), ([0x35300000#32], .clz .bc, "CLZ BC"),
  ([0x36300000#32], .ctz .bc, "CTZ BC"), ([0x37300000#32], .popc .bc, "POPC BC"),
  ([0x40410005#32], .sla64 .ix .de 0x005#12, "SLA64 IX, DE, 5"),
  ([0x41410005#32], .sra64 .ix .de 0x005#12, "SRA64 IX, DE, 5"),
  ([0x42410005#32], .srl64 .ix .de 0x005#12, "SRL64 IX, DE, 5"),
  ([0x43410005#32], .rol64 .ix .de 0x005#12, "ROL64 IX, DE, 5"),
  ([0x44410005#32], .ror64 .ix .de 0x005#12, "ROR64 IX, DE, 5"), ([0x45300000#32], .clz64 .bc, "CLZ64 BC"),
  ([0x46300000#32], .ctz64 .bc, "CTZ64 BC"), ([0x47300000#32], .popc64 .bc, "POPC64 BC")] :
  List (List Word32 × Instr × String)).all fun r => roundTrips r.1 r.2.1 r.2.2) = true := by decide

/-- spec/95_test_vectors.md 2.1: words, instruction, assembly. -/
theorem test_golden_compare_set : (([
  ([0x50300000#32], .eq .bc, "EQ BC"), ([0x51300000#32], .ne .bc, "NE BC"), ([0x52300000#32], .lts .bc, "LTS BC"),
  ([0x53300000#32], .les .bc, "LES BC"), ([0x54300000#32], .gts .bc, "GTS BC"), ([0x55300000#32], .ges .bc, "GES BC"),
  ([0x56300000#32], .ltu .bc, "LTU BC"), ([0x57300000#32], .leu .bc, "LEU BC"), ([0x58300000#32], .gtu .bc, "GTU BC"),
  ([0x59300000#32], .geu .bc, "GEU BC"), ([0x60300000#32], .eq64 .bc, "EQ64 BC"),
  ([0x61300000#32], .ne64 .bc, "NE64 BC"), ([0x62300000#32], .lts64 .bc, "LTS64 BC"),
  ([0x63300000#32], .les64 .bc, "LES64 BC"), ([0x64300000#32], .gts64 .bc, "GTS64 BC"),
  ([0x65300000#32], .ges64 .bc, "GES64 BC"), ([0x66300000#32], .ltu64 .bc, "LTU64 BC"),
  ([0x67300000#32], .leu64 .bc, "LEU64 BC"), ([0x68300000#32], .gtu64 .bc, "GTU64 BC"),
  ([0x69300000#32], .geu64 .bc, "GEU64 BC")] :
  List (List Word32 × Instr × String)).all fun r => roundTrips r.1 r.2.1 r.2.2) = true := by decide

/-- spec/95_test_vectors.md 2.1: words, instruction, assembly. -/
theorem test_golden_load : (([
  ([0x704007FF#32], .ld .ix 0x7FF#12, "LD IX, 2047"), ([0x71240FF8#32], .ld8u .a .ix 0xFF8#12, "LD8U A, [IX - 8]"),
  ([0x72240FF8#32], .ld8s .a .ix 0xFF8#12, "LD8S A, [IX - 8]"),
  ([0x73240FF8#32], .ld16u .a .ix 0xFF8#12, "LD16U A, [IX - 8]"),
  ([0x74240FF8#32], .ld16s .a .ix 0xFF8#12, "LD16S A, [IX - 8]"),
  ([0x75240FF8#32], .ld32 .a .ix 0xFF8#12, "LD32 A, [IX - 8]"),
  ([0x76240FF8#32], .ld64 .a .ix 0xFF8#12, "LD64 A, [IX - 8]"),
  ([0x77240FF8#32], .ld8u64 .a .ix 0xFF8#12, "LD8U64 A, [IX - 8]"),
  ([0x78240FF8#32], .ld8s64 .a .ix 0xFF8#12, "LD8S64 A, [IX - 8]"),
  ([0x79240FF8#32], .ld16u64 .a .ix 0xFF8#12, "LD16U64 A, [IX - 8]"),
  ([0x7A240FF8#32], .ld16s64 .a .ix 0xFF8#12, "LD16S64 A, [IX - 8]"),
  ([0x7B240FF8#32], .ld32u64 .a .ix 0xFF8#12, "LD32U64 A, [IX - 8]"),
  ([0x7C240FF8#32], .ld32s64 .a .ix 0xFF8#12, "LD32S64 A, [IX - 8]")] :
  List (List Word32 × Instr × String)).all fun r => roundTrips r.1 r.2.1 r.2.2) = true := by decide

/-- spec/95_test_vectors.md 2.1: words, instruction, assembly. -/
theorem test_golden_store : (([
  ([0x80041010#32], .st8 .ix .de 0x010#12, "ST8 [IX + 16], DE"),
  ([0x81041010#32], .st8_64 .ix .de 0x010#12, "ST8_64 [IX + 16], DE"),
  ([0x82041010#32], .st16 .ix .de 0x010#12, "ST16 [IX + 16], DE"),
  ([0x83041010#32], .st16_64 .ix .de 0x010#12, "ST16_64 [IX + 16], DE"),
  ([0x84041010#32], .st32 .ix .de 0x010#12, "ST32 [IX + 16], DE"),
  ([0x85041010#32], .st32_64 .ix .de 0x010#12, "ST32_64 [IX + 16], DE"),
  ([0x86041010#32], .st64 .ix .de 0x010#12, "ST64 [IX + 16], DE"), ([0x90103000#32], .ldir, "LDIR"),
  ([0x91023000#32], .fill, "FILL")] :
  List (List Word32 × Instr × String)).all fun r => roundTrips r.1 r.2.1 r.2.2) = true := by decide

/-- spec/95_test_vectors.md 2.1: words, instruction, assembly. -/
theorem test_golden_long_forms : (([
  ([0x70401000#32, 0x000007FF#32], .ldX32 .ix 0x000007FF#32, "LD.X32 IX, 2047"),
  ([0x70402000#32, 0x000007FF#32, 0x00000000#32], .ldX64 .ix 0x00000000000007FF#64, "LD.X64 IX, 2047"),
  ([0x70201000#32, 0x12345678#32], .ldX32 .a 0x12345678#32, "LD A, 305419896"),
  ([0x70202000#32, 0x9ABCDEF0#32, 0x12345678#32], .ldX64 .a 0x123456789ABCDEF0#64, "LD A, 1311768467463790320"),
  ([0x03101000#32, 0x000186A0#32], .cpX32 .de 0x000186A0#32, "CP DE, 100000"),
  ([0x03101000#32, 0xFFFE7960#32], .cpX32 .de 0xFFFE7960#32, "CP DE, -100000"),
  ([0x00001000#32, 0x00012340#32], .callX32 0x00012340#32, "CALL 74560"),
  ([0x00002000#32, 0x00000000#32, 0x00000001#32], .callX64 0x0000000100000000#64, "CALL 4294967296"),
  ([0x02051000#32, 0xFFFFF448#32], .jrX32 .gts 0xFFFFF448#32, "JR GTS, -3000"),
  ([0x02001000#32, 0x000186A0#32], .jrX32 .al 0x000186A0#32, "JR AL, 100000")] :
  List (List Word32 × Instr × String)).all fun r => roundTrips r.1 r.2.1 r.2.2) = true := by decide

/-- spec/95_test_vectors.md 2.2: the illegal words, followed by `RET` twice, and why. -/
theorem test_illegal_words : (([
  (0x07000000#32, .reservedOpcode), (0x0F000000#32, .reservedOpcode), (0x1A000000#32, .reservedOpcode),
  (0x2A012000#32, .reservedOpcode), (0x38000000#32, .reservedOpcode), (0x48000000#32, .reservedOpcode),
  (0x5A000000#32, .reservedOpcode), (0x6A000000#32, .reservedOpcode), (0x7D000000#32, .reservedOpcode),
  (0x87000000#32, .reservedOpcode), (0x92000000#32, .reservedOpcode), (0xE0000000#32, .reservedOpcode),
  (0xEF000000#32, .reservedOpcode), (0xF0000000#32, .reservedOpcode), (0xF3000000#32, .reservedOpcode),
  (0xF4000000#32, .reservedOpcode), (0xFFFFFFFF#32, .reservedOpcode), (0x10513000#32, .reservedRegister),
  (0x100F3000#32, .reservedRegister), (0x10015000#32, .reservedRegister), (0x10013001#32, .unusedFieldNotZero),
  (0x30011003#32, .unusedFieldNotZero), (0x30510003#32, .reservedRegister), (0x35210000#32, .unusedFieldNotZero),
  (0x35200001#32, .unusedFieldNotZero), (0x05500000#32, .reservedRegister), (0x50201000#32, .unusedFieldNotZero),
  (0x75201008#32, .unusedFieldNotZero), (0x75250008#32, .reservedRegister), (0x84102008#32, .unusedFieldNotZero),
  (0x84005008#32, .reservedRegister), (0x020B0001#32, .reservedCondition), (0x020F0001#32, .reservedCondition),
  (0x02100001#32, .unusedFieldNotZero), (0x02002000#32, .extCountNotAllowed), (0x02001001#32, .headerImmNotZero),
  (0x70010005#32, .unusedFieldNotZero), (0x70503005#32, .reservedRegister), (0x70003000#32, .extCountNotAllowed),
  (0x70001005#32, .headerImmNotZero), (0x03002000#32, .extCountNotAllowed), (0x00100020#32, .callRdNotZero),
  (0x01000001#32, .unusedFieldNotZero), (0x01100000#32, .unusedFieldNotZero), (0x04000001#32, .unusedFieldNotZero),
  (0x04010000#32, .unusedFieldNotZero), (0x90000000#32, .notFixedRegisters), (0x90013000#32, .notFixedRegisters),
  (0x91000000#32, .notFixedRegisters), (0x91023001#32, .unusedFieldNotZero)] :
  List (Word32 × Reject)).all fun r => rejectedFor [r.1, 0x01000000#32, 0x01000000#32] == some r.2) = true := by decide

/-- spec/95_test_vectors.md 2.2: missing extension words; and the empty image has no base word. -/
theorem test_missing_extension_words :
    rejectedFor [0x70001000#32] = some .missingExtWord ∧ rejectedFor [0x70002000#32, 0x00000005#32] = some .missingExtWord ∧
      rejectedFor [] = some .noBaseWord := by decide

/-- R71: the families by high nibble, and the 64-bit form `0x10` above the 32-bit one; R63: the base modes. -/
theorem test_opcode_map :
    Opcode.inc.family = .control ∧ Opcode.xor64.family = .arithLogic ∧ Opcode.popc64.family = .shiftCount ∧
    Opcode.geu64.family = .compareSet ∧ Opcode.ld.family = .load ∧ Opcode.st64.family = .store ∧
    Opcode.fill.family = .macroOp ∧ Opcode.divs.wide = some .divs64 ∧ Opcode.ror.wide = some .ror64 ∧
    Opcode.geu.wide = some .geu64 ∧ Opcode.ld8u.wide = none ∧ Opcode.add.format.addressingMode = some .reg ∧
    Opcode.sla.format.addressingMode = some .regImm12 ∧ Opcode.st8.format.addressingMode = some .memBaseImm12 ∧
    Opcode.jr.format.addressingMode = some .pcRel ∧ Opcode.ld.format.addressingMode = none := by decide

/-! ### Results of instructions -/

/-- spec/95_test_vectors.md 2.3: `LD HL, value` in its shortest form, and what it writes. -/
theorem test_ld_immediate_edges : (([
  (0x0000000000000000#64, [0x70000000#32]), (0x0000000000000001#64, [0x70000001#32]),
  (0xFFFFFFFFFFFFFFFF#64, [0x70000FFF#32]), (0x00000000000007FF#64, [0x700007FF#32]),
  (0xFFFFFFFFFFFFF800#64, [0x70000800#32]), (0x0000000000000800#64, [0x70001000#32, 0x00000800#32]),
  (0xFFFFFFFFFFFFF7FF#64, [0x70001000#32, 0xFFFFF7FF#32]), (0x000000007FFFFFFF#64, [0x70001000#32, 0x7FFFFFFF#32]),
  (0xFFFFFFFF80000000#64, [0x70001000#32, 0x80000000#32]),
  (0x0000000080000000#64, [0x70002000#32, 0x80000000#32, 0x00000000#32]),
  (0xFFFFFFFF7FFFFFFF#64, [0x70002000#32, 0x7FFFFFFF#32, 0xFFFFFFFF#32]),
  (0x7FFFFFFFFFFFFFFF#64, [0x70002000#32, 0xFFFFFFFF#32, 0x7FFFFFFF#32]),
  (0x8000000000000000#64, [0x70002000#32, 0x00000000#32, 0x80000000#32]),
  (0x00000000FFFFFFFF#64, [0x70002000#32, 0xFFFFFFFF#32, 0x00000000#32]), (0xFFFFFFFFFFFFFFFF#64, [0x70000FFF#32])] :
  List (Word × List Word32)).all fun r => encode (assembleLd .hl r.1) == r.2 &&
    after (assembleLd .hl r.1) (st 7 0 0 0 0) (fun t => t.reg .hl == r.1)) = true := by decide

/-- spec/95_test_vectors.md 2.3: the same edges in `CP`, `JR` and `CALL`. -/
theorem test_other_immediate_edges :
    encode (assembleCp .hl 2047) = [0x030007FF#32] ∧ encode (assembleCp .hl (-2048)) = [0x03000800#32] ∧
    encode (assembleCp .hl 2048) = [0x03001000#32, 0x00000800#32] ∧
    encode (assembleCp .hl (-2147483648)) = [0x03001000#32, 0x80000000#32] ∧
    encode (assembleJr .al 2047) = [0x020007FF#32] ∧ encode (assembleJr .al (-2048)) = [0x02000800#32] ∧
    encode (assembleJr .al 2048) = [0x02001000#32, 0x00000800#32] ∧
    encode (assembleJr .al (-2049)) = [0x02001000#32, 0xFFFFF7FF#32] ∧
    encode (assembleCall 0x40) = [0x00000040#32] ∧ encode (assembleCall 0x12340) = [0x00001000#32, 0x00012340#32] ∧
    encode (assembleCall 0x100000000) = [0x00002000#32, 0x00000000#32, 0x00000001#32] := by decide

/-- spec/95_test_vectors.md 2.4: instruction, `HL`, `DE`, then `A`, which holds 9 before. -/
theorem test_arith_values : (([
  (.add .a .hl .de, 0x00000000FFFFFFF9#64, 0x00000000FFFFFFFE#64, 0x00000000FFFFFFF7#64),
  (.add .a .hl .de, 0x123456789ABCDEF0#64, 0x0FEDCBA987654321#64, 0x0000000022222211#64),
  (.sub .a .hl .de, 0x00000000FFFFFFF9#64, 0x00000000FFFFFFFE#64, 0x00000000FFFFFFFB#64),
  (.sub .a .hl .de, 0x123456789ABCDEF0#64, 0x0FEDCBA987654321#64, 0x0000000013579BCF#64),
  (.mul .a .hl .de, 0x00000000FFFFFFF9#64, 0x00000000FFFFFFFE#64, 0x000000000000000E#64),
  (.mul .a .hl .de, 0x123456789ABCDEF0#64, 0x0FEDCBA987654321#64, 0x00000000E5618CF0#64),
  (.divs .a .hl .de, 0x0000000000000007#64, 0x00000000FFFFFFFE#64, 0x00000000FFFFFFFD#64),
  (.divu .a .hl .de, 0x00000000FFFFFFF9#64, 0x0000000000000002#64, 0x000000007FFFFFFC#64),
  (.rems .a .hl .de, 0x0000000080000000#64, 0x00000000FFFFFFFF#64, 0x0000000000000000#64),
  (.rems .a .hl .de, 0x00000000FFFFFFF9#64, 0x0000000000000002#64, 0x00000000FFFFFFFF#64),
  (.remu .a .hl .de, 0x00000000FFFFFFF9#64, 0x00000000FFFFFFFE#64, 0x00000000FFFFFFF9#64),
  (.and .a .hl .de, 0x00000000FFFFFFF9#64, 0x00000000FFFFFFFE#64, 0x00000000FFFFFFF8#64),
  (.and .a .hl .de, 0x123456789ABCDEF0#64, 0x0FEDCBA987654321#64, 0x0000000082244220#64),
  (.or .a .hl .de, 0x00000000FFFFFFF9#64, 0x00000000FFFFFFFE#64, 0x00000000FFFFFFFF#64),
  (.or .a .hl .de, 0x123456789ABCDEF0#64, 0x0FEDCBA987654321#64, 0x000000009FFDDFF1#64),
  (.xor .a .hl .de, 0x00000000FFFFFFF9#64, 0x00000000FFFFFFFE#64, 0x0000000000000007#64),
  (.xor .a .hl .de, 0x123456789ABCDEF0#64, 0x0FEDCBA987654321#64, 0x000000001DD99DD1#64),
  (.add64 .a .hl .de, 0xFFFFFFFFFFFFFFF9#64, 0xFFFFFFFFFFFFFFFE#64, 0xFFFFFFFFFFFFFFF7#64),
  (.add64 .a .hl .de, 0x123456789ABCDEF0#64, 0x0FEDCBA987654321#64, 0x2222222222222211#64),
  (.sub64 .a .hl .de, 0xFFFFFFFFFFFFFFF9#64, 0xFFFFFFFFFFFFFFFE#64, 0xFFFFFFFFFFFFFFFB#64),
  (.sub64 .a .hl .de, 0x123456789ABCDEF0#64, 0x0FEDCBA987654321#64, 0x02468ACF13579BCF#64),
  (.mul64 .a .hl .de, 0xFFFFFFFFFFFFFFF9#64, 0xFFFFFFFFFFFFFFFE#64, 0x000000000000000E#64),
  (.mul64 .a .hl .de, 0x123456789ABCDEF0#64, 0x0FEDCBA987654321#64, 0x2236D88FE5618CF0#64),
  (.divs64 .a .hl .de, 0x0000000000000007#64, 0xFFFFFFFFFFFFFFFE#64, 0xFFFFFFFFFFFFFFFD#64),
  (.divu64 .a .hl .de, 0xFFFFFFFFFFFFFFF9#64, 0x0000000000000002#64, 0x7FFFFFFFFFFFFFFC#64),
  (.rems64 .a .hl .de, 0x8000000000000000#64, 0xFFFFFFFFFFFFFFFF#64, 0x0000000000000000#64),
  (.rems64 .a .hl .de, 0xFFFFFFFFFFFFFFF9#64, 0x0000000000000002#64, 0xFFFFFFFFFFFFFFFF#64),
  (.remu64 .a .hl .de, 0xFFFFFFFFFFFFFFF9#64, 0xFFFFFFFFFFFFFFFE#64, 0xFFFFFFFFFFFFFFF9#64),
  (.and64 .a .hl .de, 0xFFFFFFFFFFFFFFF9#64, 0xFFFFFFFFFFFFFFFE#64, 0xFFFFFFFFFFFFFFF8#64),
  (.and64 .a .hl .de, 0x123456789ABCDEF0#64, 0x0FEDCBA987654321#64, 0x0224422882244220#64),
  (.or64 .a .hl .de, 0xFFFFFFFFFFFFFFF9#64, 0xFFFFFFFFFFFFFFFE#64, 0xFFFFFFFFFFFFFFFF#64),
  (.or64 .a .hl .de, 0x123456789ABCDEF0#64, 0x0FEDCBA987654321#64, 0x1FFDDFF99FFDDFF1#64),
  (.xor64 .a .hl .de, 0xFFFFFFFFFFFFFFF9#64, 0xFFFFFFFFFFFFFFFE#64, 0x0000000000000007#64),
  (.xor64 .a .hl .de, 0x123456789ABCDEF0#64, 0x0FEDCBA987654321#64, 0x1DD99DD11DD99DD1#64)] :
  List (Instr × Word × Word × Word)).all fun r => after r.1 (st r.2.1 r.2.2.1 9 0 0) (fun t => t.reg .a == r.2.2.2 &&
    t.reg .hl == r.2.1 && t.reg .de == r.2.2.1 && t.pc == 4#64 && t.cmp == 0#32)) = true := by decide

/-- spec/95_test_vectors.md 2.4: instruction, `HL`, `DE`, the trap; nothing else changes. -/
theorem test_arith_traps : (([
  (.divs .a .hl .de, 0x0000000080000000#64, 0x00000000FFFFFFFF#64, .integerOverflow),
  (.divu .a .hl .de, 0x0000000000000005#64, 0x0000000000000000#64, .divideByZero),
  (.remu .a .hl .de, 0x0000000000000005#64, 0x0000000000000000#64, .divideByZero),
  (.divs64 .a .hl .de, 0x8000000000000000#64, 0xFFFFFFFFFFFFFFFF#64, .integerOverflow),
  (.divu64 .a .hl .de, 0x0000000000000005#64, 0x0000000000000000#64, .divideByZero),
  (.remu64 .a .hl .de, 0x0000000000000005#64, 0x0000000000000000#64, .divideByZero)] :
  List (Instr × Word × Word × Trap)).all fun r => traps r.1 (st r.2.1 r.2.2.1 9 0 0) r.2.2.2) = true := by decide

/-- spec/95_test_vectors.md 2.4: one register as source and destination. -/
theorem test_same_register : (([(.add .hl .hl .hl, 0x00000000FFFFFFFE#64), (.add64 .hl .hl .hl, 0x00000001FFFFFFFE#64),
    (.sub64 .hl .hl .hl, 0#64), (.xor64 .hl .hl .hl, 0#64), (.divu64 .hl .hl .hl, 1#64)] : List (Instr × Word)).all fun r =>
      after r.1 (st 0xFFFFFFFF 0 0 0 0) (fun t => t.reg .hl == r.2)) = true := by decide

/-- spec/95_test_vectors.md 2.5: instruction, `HL`, then `A`. -/
theorem test_shift_values : (([
  (.sla .a .hl 0x021#12, 0x0000000080000001#64, 0x0000000000000002#64),
  (.sla .a .hl 0x004#12, 0xFFFFFFFF80000001#64, 0x0000000000000010#64),
  (.sra .a .hl 0x021#12, 0x0000000080000001#64, 0x00000000C0000000#64),
  (.sra .a .hl 0x004#12, 0xFFFFFFFF80000001#64, 0x00000000F8000000#64),
  (.srl .a .hl 0x021#12, 0x0000000080000001#64, 0x0000000040000000#64),
  (.srl .a .hl 0x004#12, 0xFFFFFFFF80000001#64, 0x0000000008000000#64),
  (.rol .a .hl 0x021#12, 0x0000000080000001#64, 0x0000000000000003#64),
  (.rol .a .hl 0x004#12, 0xFFFFFFFF80000001#64, 0x0000000000000018#64),
  (.ror .a .hl 0x021#12, 0x0000000080000001#64, 0x00000000C0000000#64),
  (.ror .a .hl 0x004#12, 0xFFFFFFFF80000001#64, 0x0000000018000000#64),
  (.sla64 .a .hl 0x041#12, 0x8000000000000001#64, 0x0000000000000002#64),
  (.sla64 .a .hl 0x004#12, 0x00000000F0000000#64, 0x0000000F00000000#64),
  (.sra64 .a .hl 0x041#12, 0x8000000000000001#64, 0xC000000000000000#64),
  (.sra64 .a .hl 0x004#12, 0x00000000F0000000#64, 0x000000000F000000#64),
  (.srl64 .a .hl 0x041#12, 0x8000000000000001#64, 0x4000000000000000#64),
  (.srl64 .a .hl 0x004#12, 0x00000000F0000000#64, 0x000000000F000000#64),
  (.rol64 .a .hl 0x041#12, 0x8000000000000001#64, 0x0000000000000003#64),
  (.rol64 .a .hl 0x004#12, 0x00000000F0000000#64, 0x0000000F00000000#64),
  (.ror64 .a .hl 0x041#12, 0x8000000000000001#64, 0xC000000000000000#64),
  (.ror64 .a .hl 0x004#12, 0x00000000F0000000#64, 0x000000000F000000#64)] :
  List (Instr × Word × Word)).all fun r => after r.1 (st r.2.1 0 9 0 0) (fun t => t.reg .a == r.2.2)) = true := by decide

/-- spec/95_test_vectors.md 2.6: instruction, `HL` before, `HL` after. -/
theorem test_count_values : (([
  (.clz .hl, 0x0000000000010000#64, 0x000000000000000F#64), (.clz .hl, 0xFFFFFFFF00000000#64, 0x0000000000000020#64),
  (.ctz .hl, 0x0000000000010000#64, 0x0000000000000010#64), (.ctz .hl, 0xFFFFFFFF00000000#64, 0x0000000000000020#64),
  (.popc .hl, 0x00000000FFFFFFFF#64, 0x0000000000000020#64),
  (.popc .hl, 0xFFFFFFFF00000000#64, 0x0000000000000000#64),
  (.clz64 .hl, 0x0000000000000000#64, 0x0000000000000040#64),
  (.clz64 .hl, 0x0000000100000000#64, 0x000000000000001F#64),
  (.ctz64 .hl, 0x0000000000000000#64, 0x0000000000000040#64),
  (.ctz64 .hl, 0x0000000100000000#64, 0x0000000000000020#64),
  (.popc64 .hl, 0xFFFFFFFFFFFFFFFF#64, 0x0000000000000040#64),
  (.popc64 .hl, 0xFFFFFFFF00000000#64, 0x0000000000000020#64),
  (.inc .hl, 0x00000000FFFFFFFF#64, 0x0000000000000000#64), (.inc .hl, 0x1234567800000000#64, 0x0000000000000001#64),
  (.dec .hl, 0x0000000000000000#64, 0x00000000FFFFFFFF#64), (.dec .hl, 0x1234567800000000#64, 0x00000000FFFFFFFF#64)] :
  List (Instr × Word × Word)).all fun r => after r.1 (st r.2.1 0 9 0 0) (fun t => t.reg .hl == r.2.2)) = true := by decide

/-- spec/95_test_vectors.md 2.7: instruction, then the result for `HL` 80000000H and for FFFFFFFF00000000H. -/
theorem test_compare_set_values : (([
  (.eq .hl, 0, 1), (.ne .hl, 1, 0), (.lts .hl, 1, 0), (.les .hl, 1, 1), (.gts .hl, 0, 0), (.ges .hl, 0, 1),
  (.ltu .hl, 0, 0), (.leu .hl, 0, 1), (.gtu .hl, 1, 0), (.geu .hl, 1, 1), (.eq64 .hl, 0, 0), (.ne64 .hl, 1, 1),
  (.lts64 .hl, 0, 1), (.les64 .hl, 0, 1), (.gts64 .hl, 1, 0), (.ges64 .hl, 1, 0), (.ltu64 .hl, 0, 0),
  (.leu64 .hl, 0, 0), (.gtu64 .hl, 1, 1), (.geu64 .hl, 1, 1)] :
  List (Instr × Word × Word)).all fun r => after r.1 (st 0x80000000 0 0 0 0) (fun t => t.reg .hl == r.2.1 && t.cmp == 0#32) &&
    after r.1 (st 0xFFFFFFFF00000000 0 0 0 0) (fun t => t.reg .hl == r.2.2)) = true := by decide

/-- spec/95_test_vectors.md 2.7: instruction, `HL`, then `CMP`. -/
theorem test_cp_values : (([
  (.cp .hl 0x007#12, 0x0000000000000005#64, 0xFFFFFFFE#32), (.cp .hl 0x007#12, 0xFFFFFFFF00000007#64, 0x00000000#32),
  (.cpX32 .hl 0x000186A0#32, 0x00000000000186A0#64, 0x00000000#32),
  (.cpX32 .hl 0x7FFFFFFF#32, 0x0000000000000000#64, 0x80000001#32)] :
  List (Instr × Word × Word32)).all fun r => after r.1 (st r.2.1 0 0 0 0) (fun t => t.cmp == r.2.2 && t.reg .hl == r.2.1)) = true := by decide

/-- spec/95_test_vectors.md 2.8: bytes 80 FF 7F 00 EF CD AB 89 from 100H, `HL` 100H: instruction, then `A`. -/
theorem test_load_values : (([
  (.ld8u .a .hl 0x001#12, 0x00000000000000FF#64), (.ld8u .a .hl 0x004#12, 0x00000000000000EF#64),
  (.ld8s .a .hl 0x001#12, 0x00000000FFFFFFFF#64), (.ld8s .a .hl 0x004#12, 0x00000000FFFFFFEF#64),
  (.ld16u .a .hl 0x001#12, 0x0000000000007FFF#64), (.ld16u .a .hl 0x004#12, 0x000000000000CDEF#64),
  (.ld16s .a .hl 0x001#12, 0x0000000000007FFF#64), (.ld16s .a .hl 0x004#12, 0x00000000FFFFCDEF#64),
  (.ld32 .a .hl 0x001#12, 0x00000000EF007FFF#64), (.ld32 .a .hl 0x004#12, 0x0000000089ABCDEF#64),
  (.ld64 .a .hl 0x000#12, 0x89ABCDEF007FFF80#64), (.ld8u64 .a .hl 0x001#12, 0x00000000000000FF#64),
  (.ld8u64 .a .hl 0x004#12, 0x00000000000000EF#64), (.ld8s64 .a .hl 0x001#12, 0xFFFFFFFFFFFFFFFF#64),
  (.ld8s64 .a .hl 0x004#12, 0xFFFFFFFFFFFFFFEF#64), (.ld16u64 .a .hl 0x001#12, 0x0000000000007FFF#64),
  (.ld16u64 .a .hl 0x004#12, 0x000000000000CDEF#64), (.ld16s64 .a .hl 0x001#12, 0x0000000000007FFF#64),
  (.ld16s64 .a .hl 0x004#12, 0xFFFFFFFFFFFFCDEF#64), (.ld32u64 .a .hl 0x001#12, 0x00000000EF007FFF#64),
  (.ld32u64 .a .hl 0x004#12, 0x0000000089ABCDEF#64), (.ld32s64 .a .hl 0x001#12, 0xFFFFFFFFEF007FFF#64),
  (.ld32s64 .a .hl 0x004#12, 0xFFFFFFFF89ABCDEF#64)] :
  List (Instr × Word)).all fun r => after r.1 ((st 0x100 0 9 0 0).setMem (bytesAt 0x100 0x89ABCDEF007FFF80 8))
    (fun t => t.reg .a == r.2)) = true := by decide

/-- spec/95_test_vectors.md 2.8: `HL` 200H, bytes AA from 200H to 20BH: instruction, then those bytes. -/
theorem test_store_values : (([
  (.st8 .hl .a 0x003#12, [0xAA, 0xAA, 0xAA, 0x88, 0xAA, 0xAA, 0xAA, 0xAA, 0xAA, 0xAA, 0xAA, 0xAA]),
  (.st8_64 .hl .a 0x003#12, [0xAA, 0xAA, 0xAA, 0x88, 0xAA, 0xAA, 0xAA, 0xAA, 0xAA, 0xAA, 0xAA, 0xAA]),
  (.st16 .hl .a 0x003#12, [0xAA, 0xAA, 0xAA, 0x88, 0x77, 0xAA, 0xAA, 0xAA, 0xAA, 0xAA, 0xAA, 0xAA]),
  (.st16_64 .hl .a 0x003#12, [0xAA, 0xAA, 0xAA, 0x88, 0x77, 0xAA, 0xAA, 0xAA, 0xAA, 0xAA, 0xAA, 0xAA]),
  (.st32 .hl .a 0x003#12, [0xAA, 0xAA, 0xAA, 0x88, 0x77, 0x66, 0x55, 0xAA, 0xAA, 0xAA, 0xAA, 0xAA]),
  (.st32_64 .hl .a 0x003#12, [0xAA, 0xAA, 0xAA, 0x88, 0x77, 0x66, 0x55, 0xAA, 0xAA, 0xAA, 0xAA, 0xAA]),
  (.st64 .hl .a 0x003#12, [0xAA, 0xAA, 0xAA, 0x88, 0x77, 0x66, 0x55, 0x44, 0x33, 0x22, 0x11, 0xAA])] :
  List (Instr × List Byte)).all fun r =>
    after r.1 ((st 0x200 0 0x1122334455667788 0 0).setMem (bytesAt 0x200 0xAAAAAAAAAAAAAAAAAAAAAAAA 12))
      (fun t => Memory.readBytes t.mem 0x200 12 == r.2 && Memory.wf t.mem)) = true := by decide

/-- spec/95_test_vectors.md 2.8, bounds: `HL`, the instruction, and the trap where there is one. -/
theorem test_bounds : (([
  (0x000000000000FFFF#64, .ld8u .a .hl 0x000#12, none),
  (0x000000000000FFFF#64, .ld16u .a .hl 0x000#12, some (.memoryBounds (65535) 2)),
  (0x000000000000FFFC#64, .ld32 .a .hl 0x000#12, none),
  (0x000000000000FFFD#64, .ld32 .a .hl 0x000#12, some (.memoryBounds (65533) 4)),
  (0x000000000000FFF8#64, .ld64 .a .hl 0x000#12, none),
  (0x000000000000FFF9#64, .ld64 .a .hl 0x000#12, some (.memoryBounds (65529) 8)),
  (0x0000000000010000#64, .ld8u .a .hl 0xFFF#12, none),
  (0x0000000000010000#64, .ld8u .a .hl 0x000#12, some (.memoryBounds (65536) 1)),
  (0x0000000000000000#64, .ld8u .a .hl 0xFFF#12, some (.memoryBounds (-1) 1)),
  (0x00000000000007FF#64, .ld8u .a .hl 0x800#12, some (.memoryBounds (-1) 1)),
  (0xFFFFFFFFFFFFFFFF#64, .ld8u .a .hl 0x001#12, some (.memoryBounds (18446744073709551616) 1)),
  (0x0000000100000100#64, .ld32 .a .hl 0x000#12, some (.memoryBounds (4294967552) 4)),
  (0x000000000000FFFF#64, .st8 .hl .a 0x000#12, none),
  (0x000000000000FFFF#64, .st16 .hl .a 0x000#12, some (.memoryBounds (65535) 2)),
  (0x000000000000FFF8#64, .st64 .hl .a 0x000#12, none),
  (0x000000000000FFF9#64, .st64 .hl .a 0x000#12, some (.memoryBounds (65529) 8)),
  (0x0000000000000000#64, .st32 .hl .a 0xFFC#12, some (.memoryBounds (-4) 4))] :
  List (Word × Instr × Option Trap)).all fun r => match r.2.2 with
    | some c => traps r.2.1 (st r.1 0 1 0 0) c
    | none => after r.2.1 (st r.1 0 1 0 0) (fun t => t.status == .running && t.pc == 4#64)) = true := by decide

/-- spec/95_test_vectors.md 2.9: condition, then the next `pc` of `JR cc, 4` at 0 for five values of `CMP`. -/
theorem test_jr_conditions : (([
  (.al, [16, 16, 16, 16, 16]), (.eq, [16, 4, 4, 4, 4]), (.ne, [4, 16, 16, 16, 16]), (.lts, [4, 4, 16, 16, 4]),
  (.les, [16, 4, 16, 16, 4]), (.gts, [4, 16, 4, 4, 16]), (.ges, [16, 16, 4, 4, 16]), (.ltu, [4, 4, 4, 4, 4]),
  (.leu, [16, 4, 4, 4, 4]), (.gtu, [4, 16, 16, 16, 16]), (.geu, [16, 16, 16, 16, 16])] :
  List (Cond × List Word)).all fun r => ([0x00000000, 0x00000005, 0xFFFFFFFE, 0x80000000, 0x7FFFFFFF] : List Word32).map
    (fun c => pcAfter (.jr r.1 4) ((st 0 0 0 0 0).setCmp c)) == r.2.map some) = true := by decide

/-- spec/95_test_vectors.md 2.9: the five `JR` targets, for both bases (R241). -/
theorem test_jr_targets :
    pcAfter (.jr .al (-2)) ((st 0 0 0 0 0).setPc 8) = some 0#64 ∧ pcAfter (.jr .al 0) ((st 0 0 0 0 0).setPc 8) = some 8#64 ∧
    pcAfter (.jr .al 1) ((st 0 0 0 0 0).setPc 8) = some 12#64 ∧
    pcAfter (.jrX32 .al 3) ((st 0 0 0 0 0).setPc 16) = some 28#64 ∧
    pcAfter (.jrX32 .eq 3) (((st 0 0 0 0 0).setPc 16).setCmp 1) = some 24#64 ∧
    pcAfter (.jr .al (-2)) (State.setPc { st 0 0 0 0 0 with cfg := { jrBase := .nextInstr } } 8) = some 4#64 ∧
    pcAfter (.jr .al 0) (State.setPc { st 0 0 0 0 0 with cfg := { jrBase := .nextInstr } } 8) = some 12#64 ∧
    pcAfter (.jr .al 1) (State.setPc { st 0 0 0 0 0 with cfg := { jrBase := .nextInstr } } 8) = some 16#64 ∧
    pcAfter (.jrX32 .al 3) (State.setPc { st 0 0 0 0 0 with cfg := { jrBase := .nextInstr } } 16) = some 36#64 ∧
    pcAfter (.jr .al (-1)) (st 0 0 0 0 0) = some 0xFFFFFFFFFFFFFFFC#64 := by decide

/-- spec/95_test_vectors.md 2.9: `CALL` in its three lengths. -/
theorem test_call_values :
    after (.call 0x20) ((st 0 0 0 0 0).setPc 8) (fun t => t.pc == 32#64 && t.rs == [12#64]) = true ∧
    after (.callX32 0x12340) ((st 0 0 0 0 0).setPc 8) (fun t => t.pc == 0x12340#64 && t.rs == [16#64]) = true ∧
    after (.callX64 0x100000000) ((st 0 0 0 0 0).setPc 8) (fun t => t.pc == 0x100000000#64 && t.rs == [20#64]) = true ∧
    after (.call 0x800) (st 0 0 0 0 0) (fun t => t.pc == 0xFFFFFFFFFFFFF800#64) = true := by decide

/-- spec/95_test_vectors.md 2.9: with `CALL_DEPTH` 2 the third `CALL` traps. -/
theorem test_call_full :
    traps (.call 0) { st 0 0 0 0 0 with rs := [4#64, 4#64], cfg := { callDepth := some 2 } } .callStackOverflow = true ∧
    after (.call 0) { st 0 0 0 0 0 with rs := [4#64], cfg := { callDepth := some 2 } } (fun t => t.rs == [4#64, 4#64]) = true := by
  decide

/-- spec/95_test_vectors.md 2.9: `RET` returns, and halts on the empty stack. -/
theorem test_ret_values :
    after .ret { st 0 0 0 0 0 with rs := [12#64, 8#64] } (fun t => t.pc == 12#64 && t.rs == [8#64]) = true ∧
    after .ret ((st 0 0 0 0 0).setPc 8) (fun t => t == { (st 0 0 0 0 0).setPc 8 with status := .halted }) = true := by decide

/-- spec/95_test_vectors.md 2.9: `DROP` advances by 4. -/
theorem test_drop : after .drop (st 1 2 3 4 5) (fun t => t == (st 1 2 3 4 5).setPc 4) = true := by decide

/-- spec/95_test_vectors.md 2.9, `FILL`: the bytes, and the registers that do not become unspecified. -/
theorem test_fill : after .fill ((st 0x300 2 0x1234ABCD 4 5).setMem (bytesAt 0x2FE 0x1111111111111111 8)) (fun t =>
    Memory.readBytes t.mem 0x2FE 8 == [0x11, 0x11, 0xCD, 0xCD, 0xCD, 0xCD, 0x11, 0x11] && t.reg .a == 0x1234ABCD#64 &&
      t.reg .de == 2#64 && t.reg .ix == 5#64 && t.pc == 4#64 && t.status == .running) = true := by decide

/-- spec/95_test_vectors.md 2.9, `FILL`: a count of zero at and past the end of memory; a range past it. -/
theorem test_fill_bounds :
    after .fill (st 65536 0 0xFF 0 0) (fun t => t.status == .running && t.mem == []) = true ∧
    after .fill (st 65537 0 0xFF 0 0) (fun t => t.status == .trapped (.memoryBounds 65537 0) 0) = true ∧
    after .fill (st 65534 0 0xFF 3 0) (fun t => t.status == .trapped (.memoryBounds 65534 3) 0 && t.pc == 0) = true := by decide

/-- R309: a macro-op that traps leaves `CMP`, `A`, `IX` and the return stack. -/
theorem test_macro_trap_keeps :
    after .fill ((st 65534 2 0xFF 3 5).setCmp 9) (fun t => t.cmp == 9 && t.reg .a == 0xFF &&
      t.reg .de == 2 && t.reg .ix == 5 && t.rs == []) = true ∧
    after .ldir ((st 0 65534 7 3 5).setCmp 9) (fun t => t.cmp == 9 && t.reg .a == 7 && t.reg .ix == 5) = true := by decide

/-- spec/95_test_vectors.md 2.9, `LDIR`: apart, overlapping upwards, overlapping downwards. -/
theorem test_ldir :
    after .ldir ((st 0x100 0x200 7 4 5).setMem (Memory.writeBytes (bytesAt 0x100 0x060504030201 6) 0x200 [9, 9, 9, 9, 9, 9]))
      (fun t => Memory.readBytes t.mem 0x200 6 == [1, 2, 3, 4, 9, 9] && t.reg .a == 7#64 && t.reg .ix == 5#64) = true ∧
    after .ldir ((st 0x100 0x101 7 4 5).setMem (bytesAt 0x100 0x060504030201 6))
      (fun t => Memory.readBytes t.mem 0x100 6 == [1, 1, 1, 1, 1, 6]) = true ∧
    after .ldir ((st 0x101 0x100 7 4 5).setMem (bytesAt 0x100 0x060504030201 6))
      (fun t => Memory.readBytes t.mem 0x100 6 == [2, 3, 4, 5, 5, 6]) = true := by decide

/-- spec/95_test_vectors.md 2.9 and R254, `LDIR`: the source range is reported first, then the destination range. -/
theorem test_ldir_bounds :
    after .ldir (st 65534 65535 0 4 0) (fun t => t.status == .trapped (.memoryBounds 65534 4) 0) = true ∧
    after .ldir (st 0x100 65534 0 4 0) (fun t => t.status == .trapped (.memoryBounds 65534 4) 0) = true := by decide

/-- Mixed width, spec/95_test_vectors.md 2.8: loads of what `ST64` wrote. -/
theorem test_mixed_width : (([(.ld8u .de .hl 0, 0x88#64), (.ld8u .de .hl 7, 0x11#64), (.ld16u .de .hl 2, 0x5566#64),
    (.ld32 .de .hl 4, 0x11223344#64), (.ld32 .de .hl 0, 0x55667788#64)] : List (Instr × Word)).all fun r =>
      after (.st64 .hl .a 0) (st 0x300 0 0x1122334455667788 0 0) (fun t => after r.1 t (fun u => u.reg .de == r.2))) = true := by
  decide

/-! ### Steps, reset, the placing of a word -/

/-- R340 to R343: reset, with the default parameters: `pc` at `PROG_BASE`, the return stack empty, Running. -/
theorem test_reset : State.reset.pc = 0#64 ∧ State.reset.rs = [] ∧ State.reset.status = .running ∧
    Memory.wf State.reset.mem = true ∧ State.reset.cfg.memSize = 65536 ∧ State.reset.cfg.callDepth = some 1024 := by decide

/-- With no program placed the first step after reset takes `FetchFault` (R306, R341). -/
theorem test_step_from_reset : stepsTo State.reset (fun t => t.status == .trapped (.fetchFault 0) 0) = true := by decide

/-- The host's word, placed, is what the next step runs: `LD DE, 0x12345678` in two words, and `ADD64 HL, HL, HL`. -/
theorem test_with_fetch_word :
    stepsTo (State.reset.withFetchWord 64 0x1234567870101000) (fun t => t.reg .de == 0x12345678#64 && t.pc == 8#64) = true ∧
    stepsTo ((st 3 0 0 0 0).withFetchWord 32 0x20000000) (fun t => t.reg .hl == 6#64 && t.pc == 4#64) = true ∧
    decodeTableWord 96 0x112233445566778870302000 = some (.ldX64 .bc 0x1122334455667788) ∧
    decodeTableWord 32 0x70302000 = some (.ldX64 .bc 0) ∧ decodeTableWord 32 0x07000000 = none := by decide

/-- A rejected word traps with the word, and nothing else changes (R302). -/
theorem test_step_illegal : stepsTo (image [0x07000000#32])
    (fun t => t == { image [0x07000000#32] with status := .trapped (.illegalInstruction 0x07000000) 0 }) = true := by decide

/-- spec/46_control_flow.md R245: the five-word example, its first step and its last. -/
theorem test_example_of_ret :
    stepsTo (image [0x0000000C#32, 0x70200001#32, 0x01000000#32, 0x70000007#32, 0x01000000#32])
      (fun t => t.pc == 12#64 && t.rs == [4#64]) = true ∧
    stepsTo ((image [0x0000000C#32, 0x70200001#32, 0x01000000#32, 0x70000007#32, 0x01000000#32]).setPc 8)
      (fun t => t.pc == 8#64 && t.status == .halted) = true := by decide

/-- R67: a well-formed image, one with a missing extension word, one with a reserved opcode. -/
theorem test_image_well_formed :
    imageWellFormed .rs2Count [0x70101000#32, 0x12345678#32, 0x01000000#32] = true ∧
    imageWellFormed .rs2Count [0x01000000#32, 0x70101000#32] = false ∧
    imageWellFormed .rs2Count [0x01000000#32, 0x07000000#32] = false ∧ imageWellFormed .rs2Count [] = true := by decide

/-- A write of what an unlisted byte reads as removes the entry: memory stays canonical. -/
theorem test_memory_canonical :
    Memory.write [(4, 1#8), (7, 2#8)] 4 0#8 = [(7, 2#8)] ∧ Memory.write [(4, 1#8), (7, 2#8)] 5 3#8 = [(4, 1#8), (5, 3#8), (7, 2#8)] ∧
    Memory.wf [(4, 0#8)] = false ∧ Memory.wf [(7, 2#8), (4, 1#8)] = false := by decide

/-! ### Witnesses: states and operands that meet the hypotheses of each obligation -/

/-- A running machine whose first instruction is the word given and that has room for the longest form. -/
def running (w : Word32) : State := image [w, 0x00000000#32, 0x00000000#32]

theorem test_witness_AcceptedWordsAreTheEncoding :
    decode .rs2Count [0x10013000#32, 0xFFFFFFFF#32] = .ok (.add .hl .de .bc) := by decide

/-- Both clauses, on a word of one length and on one of three. -/
theorem test_witness_DecoderAcceptsExactlyTheTable :
    decode .rs2Count [0x10444000#32] = .ok (.add .ix .ix .ix) ∧
    decode .rs2Count [0x70402000#32, 0xFFFFFFFF#32, 0x7FFFFFFF#32] = .ok (.ldX64 .ix 0x7FFFFFFFFFFFFFFF#64) ∧
    EncodingRow.accepts ⟨0x70, .register, .exactly 0, .exactly 2, false, 3⟩ (Fields.ofWord 0x70402000#32) = true ∧
    (⟨0x70, .register, .exactly 0, .exactly 2, false, 3⟩ : EncodingRow) ∈ encodingTable := by decide

/-- The first and the last value of each reserved range, and their neighbours. -/
theorem test_witness_ReservedOpcodesAreRejected :
    (([0x07, 0x0F, 0x1A, 0x1F, 0x2A, 0x2F, 0x38, 0x3F, 0x48, 0x4F, 0x5A, 0x5F, 0x6A, 0x6F, 0x7D, 0x7F, 0x87, 0x8F, 0x92,
      0xFF] : List Nat).all fun n => reservedOpcode n &&
        rejectedFor [BitVec.ofNat 32 (n * 2 ^ 24)] == some .reservedOpcode) = true ∧
    (([0x00, 0x06, 0x10, 0x19, 0x20, 0x29, 0x30, 0x37, 0x40, 0x47, 0x50, 0x59, 0x60, 0x69, 0x70, 0x7C, 0x80, 0x86, 0x90,
      0x91] : List Nat).all fun n => !reservedOpcode n) = true := by decide

/-- Every format, its checked fields at their largest legal value. -/
theorem test_witness_RegisterFieldsAreChecked :
    decode .rs2Count [0x10444000#32] = .ok (.add .ix .ix .ix) ∧ Opcode.add.format = .rrr ∧
    decode .rs2Count [0x90103000#32] = .ok .ldir ∧ Opcode.ldir.format = .rrrFixed ∧
    decode .rs2Count [0x30440FFF#32] = .ok (.sla .ix .ix 0xFFF#12) ∧ Opcode.sla.format = .rri12 ∧
    decode .rs2Count [0x75440FFF#32] = .ok (.ld32 .ix .ix 0xFFF#12) ∧ Opcode.ld32.format = .mem ∧
    decode .rs2Count [0x84044FFF#32] = .ok (.st32 .ix .ix 0xFFF#12) ∧ Opcode.st32.format = .store ∧
    decode .rs2Count [0x05400000#32] = .ok (.inc .ix) ∧ Opcode.inc.format = .r ∧
    decode .rs2Count [0x020A1000#32, 0#32] = .ok (.jrX32 .geu 0#32) ∧ Opcode.jr.format = .j ∧
    decode .rs2Count [0x70402000#32, 0#32, 0#32] = .ok (.ldX64 .ix 0#64) ∧ Opcode.ld.format = .imm ∧
    Opcode.add.code = (Fields.ofWord 0x10444000#32).op := by decide

/-- Values at both ends of 12 and of 32 bits; a `CALL` with room and one without. -/
theorem test_witness_EncoderPicksTheShortestForm :
    imm12 2047 = 2047#64 ∧ imm12 0x800 = 0xFFFFFFFFFFFFF800#64 ∧ imm32 0x7FFFFFFF = 0x7FFFFFFF#64 ∧
    imm32 0x80000000 = 0xFFFFFFFF80000000#64 ∧ (0x800#12).signExtend 32 = 0xFFFFF800#32 ∧
    (assembleLd .hl 2047).len = 1 ∧ (assembleLd .hl 2048).len = 2 ∧ (assembleLd .hl 2147483648).len = 3 ∧
    after (assembleCall 2048) (st 0 0 0 0 0) (fun t => t.pc == 2048 && t.rs == [8]) = true ∧
    traps (assembleCall 2048) { st 0 0 0 0 0 with cfg := { callDepth := some 0 } } .callStackOverflow = true := by decide

theorem test_witness_StepRunsTheDecodedInstruction : (running 0x10013000#32).status = .running ∧
    FetchesInImage (running 0x10013000#32) ∧
    decode (running 0x10013000#32).cfg.extScheme (wordsAtPc (running 0x10013000#32)) = .ok (.add .hl .de .bc) := by
  unfold FetchesInImage; decide

/-- Outside: misaligned, below the base, one past the end; inside: the first and the last word. -/
theorem test_witness_FetchOutsideImageFaults :
    ¬ FetchesInImage ((running 0#32).setPc 2) ∧ ¬ FetchesInImage ((running 0#32).setPc 12) ∧
    ¬ FetchesInImage { running 0#32 with cfg := { progBase := 4 } } ∧ FetchesInImage (running 0#32) ∧
    FetchesInImage ((running 0#32).setPc 8) ∧ stepsTo ((running 0#32).setPc 8) (fun t => t.status == .running) = true := by
  unfold FetchesInImage; decide

/-- A reserved opcode, and a missing extension word at the end of the image. -/
theorem test_witness_RejectedWordTraps :
    FetchesInImage (image [0x07000000#32]) ∧ wordsAtPc (image [0x07000000#32]) = [0x07000000#32] ∧
    decode .rs2Count [0x07000000#32] = .error .reservedOpcode ∧ FetchesInImage (image [0x70001000#32]) ∧
    decode .rs2Count [0x70001000#32] = .error .missingExtWord := by
  unfold FetchesInImage; decide

theorem test_witness_TerminalStatesHaveNoSuccessor :
    ({ running 0#32 with status := .halted } : State).status = .halted ∧
    ({ running 0#32 with status := .trapped .divideByZero 0 } : State).status = .trapped .divideByZero 0 := by decide

theorem test_witness_RunningMachineAlwaysSteps : State.reset.status = .running ∧ (running 0#32).status = .running := by decide

/-- A memory with its last byte listed. -/
theorem test_witness_InvariantHoldsAtStart :
    Memory.wf [(0, 1#8), (65535, 2#8)] = true ∧ Memory.within ({} : Config).memSize [(0, 1#8), (65535, 2#8)] = true := by decide

/-- Steps from states with the invariant: a store, a `CALL`, a `RET` that halts, a trap. -/
theorem test_witness_EveryStepKeepsTheInvariant :
    (([0x80002003#32, 0x00000008#32, 0x01000000#32, 0x13201000#32] : List Word32).all fun w =>
      (running w).inv && stepsTo (running w) (fun t => t.inv)) = true := by decide

theorem test_witness_ProgramNeverChanges :
    stepsTo (running 0x91023000#32) (fun t => t.prog == (running 0x91023000#32).prog && t.cfg == (running 0x91023000#32).cfg) =
      true := by decide

/-- A trap that changes nothing, and one of a macro-op, whose instruction is a macro-op. -/
theorem test_witness_TrapsArePrecise :
    stepsTo (running 0x13201000#32) (fun t => t.status == .trapped .divideByZero 0) = true ∧
    stepsTo ((running 0x91023000#32).setReg .hl 65537) (fun t => t.status == .trapped (.memoryBounds 65537 0) 0) = true := by
  decide

/-- Each of the six causes. -/
theorem test_witness_TrapCausesAreThoseOfTheTable :
    stepsTo (running 0x07000000#32) (fun t => t.status == .trapped (.illegalInstruction 0x07000000) 0) = true ∧
    stepsTo (running 0x14201000#32) (fun t => t.status == .trapped .divideByZero 0) = true ∧
    stepsTo (((running 0x23201000#32).setReg .hl 0x8000000000000000).setReg .de (-1))
      (fun t => t.status == .trapped .integerOverflow 0) = true ∧
    stepsTo (running 0x71200FFF#32) (fun t => t.status == .trapped (.memoryBounds (-1) 1) 0) = true ∧
    stepsTo ((running 0#32).setPc 12) (fun t => t.status == .trapped (.fetchFault 12) 12) = true ∧
    stepsTo { running 0#32 with cfg := { callDepth := some 0 } } (fun t => t.status == .trapped .callStackOverflow 0) = true := by
  decide

/-- `CP` changes `CMP`; an instruction that is no conditional `JR` goes on, `JR AL` among them; a macro-op that completes and
one that traps. -/
theorem test_witness_CompareRegisterIsForCpAndJr :
    after (.cp .hl 1) (st 0 0 0 0 0) (fun t => t.cmp != 0) = true ∧ isConditionalJr (.jr .al 1) = false ∧
    after (.jr .al 1) (st 0 0 0 0 0) (fun t => t.pc == 4) = true ∧ isConditionalJr (.add .hl .de .bc) = false ∧
    after (.add .hl .de .bc) (st 0 0 0 0 0) (fun _ => true) = true ∧ isMacroOp (.add .hl .de .bc) = false ∧
    isMacroOp .fill = true ∧ (st 65536 0 7 0 0).status = .running ∧
    after .fill (st 65536 0 7 0 0) (fun t => t.status == .running) = true ∧
    after .fill (st 65536 0 7 1 0) (fun t => t.status == .trapped (.memoryBounds 65536 1) 0) = true := by decide

/-- A `CALL` with room and one without, a `RET` with and without an entry, another instruction, a macro-op. -/
theorem test_witness_ReturnStackIsForCallAndRet :
    after (.call 8) (st 0 0 0 0 0) (fun t => t.rs == [4]) = true ∧
    after (.call 8) { st 0 0 0 0 0 with cfg := { callDepth := some 0 } } (fun t => t.rs == []) = true ∧
    after .ret { st 0 0 0 0 0 with rs := [8, 4] } (fun t => t.rs == [4]) = true ∧
    after .ret (st 0 0 0 0 0) (fun t => t.rs == []) = true ∧ isCall (.inc .hl) = false ∧
    isMacroOp (.inc .hl) = false ∧ after (.inc .hl) (st 0 0 0 0 0) (fun _ => true) = true ∧ isMacroOp .ldir = true ∧
    after .ldir (st 0x100 0x200 7 4 5) (fun t => t.status == .running) = true ∧
    (st 0 0 0 0 0).cfg.callDepth ≠ some (st 0 0 0 0 0).rs.length ∧
    ({ st 0 0 0 0 0 with cfg := { callDepth := some 0 } } : State).cfg.callDepth = some (st 0 0 0 0 0).rs.length := by decide

theorem test_witness_OnlyStoresChangeMemory :
    after (.st8 .hl .a 0) (st 65535 0 1 0 0) (fun t => Memory.read t.mem 65535 != Memory.read (st 65535 0 1 0 0).mem 65535) =
      true := by decide

/-- An instruction of one, of two and of three words, the last at the end of the address space. -/
theorem test_witness_ProgramCounterAdvances :
    after (.inc .hl) (st 0 0 0 0 0) (fun t => t.status == .running && t.pc == 4) = true ∧
    after (.cpX32 .hl 5) (st 0 0 0 0 0) (fun t => t.status == .running && t.pc == 8) = true ∧
    after (.ldX64 .hl 5) ((st 0 0 0 0 0).setPc 0xFFFFFFFFFFFFFFFC) (fun t => t.status == .running && t.pc == 8) = true := by
  decide

/-- A step that is no `CALL`, and a `CALL` to an aligned target. -/
theorem test_witness_AlignmentIsLostOnlyByCall :
    (running 0x05000000#32).stackAligned = true ∧ (running 0x05000000#32).fetch = .ok (.inc .hl) ∧ callTarget (.inc .hl) = none ∧
    stepsTo (running 0x05000000#32) (fun t => t.pc == 4) = true ∧ (running 0x00000008#32).fetch = .ok (.call 8) ∧
    callTarget (.call 8) = some 8#64 ∧ stepsTo (running 0x00000008#32) (fun t => t.pc == 8 && t.rs == [4]) = true := by decide

/-- Registers that differ in their upper halves; an instruction that completes and one that traps. -/
theorem test_witness_UpperHalvesDoNotMatterIn32Bits :
    dest32 (.divu .a .hl .de) = some .a ∧ (st 7 2 0 0 0).status = .running ∧
    (∀ r, (Regs.get ⟨0xFFFFFFFF00000007, 0x100000002, 0, 0, 0⟩ r).toNat % 2 ^ 32 = ((st 7 2 0 0 0).reg r).toNat % 2 ^ 32) ∧
    after (.divu .a .hl .de) (st 7 2 0 0 0) (fun t => t.reg .a == 3) = true ∧
    traps (.divu .a .hl .bc) (st 7 2 0 0 0) .divideByZero = true := by
  refine ⟨by decide, by decide, fun r => ?_, by decide, by decide⟩
  cases r <;> decide

/-- `CALL` in its three lengths, with one entry of room left. -/
theorem test_witness_RetUndoesCall :
    isCall (.call 8) = true ∧ isCall (.callX32 8) = true ∧ isCall (.callX64 8) = true ∧
    ({ st 0 0 0 0 0 with cfg := { callDepth := some 1 } } : State).cfg.callDepth ≠
      some ({ st 0 0 0 0 0 with cfg := { callDepth := some 1 } } : State).rs.length ∧
    after (.callX64 8) { st 0 0 0 0 0 with cfg := { callDepth := some 1 } } (fun t => t.rs == [12]) = true := by decide

/-- A misaligned `ENTRY`, one below the image, one just past its end. -/
theorem test_witness_ResetStartsAtEntryWithEmptyStack :
    ({ entry := 2 } : Config).entry.toNat % 4 ≠ 0 ∧ ({ progBase := 8, entry := 4 } : Config).entry.toNat < 8 ∧
    ({} : Config).progBase.toNat + 4 * [0x01000000#32].length ≤ ({ entry := 4 } : Config).entry.toNat := by decide

/-- A zero divisor, the smallest nonzero one, the greatest one. -/
theorem test_witness_UnsignedDivision :
    operand 32 (st 7 0xFFFFFFFF00000000 0 0 0) .de = 0 ∧ operand 32 (st 7 1 0 0 0) .de ≠ 0 ∧
    operand 64 (st 7 0xFFFFFFFFFFFFFFFF 0 0 0) .de ≠ 0 ∧ operand 64 (st 7 0 0 0 0) .de = 0 := by decide

/-- A zero divisor; the quotient that does not fit; its neighbours, which do. -/
theorem test_witness_SignedDivision :
    operand 32 (st 7 0 0 0 0) .de = 0 ∧
    (asSigned 32 (operand 32 (st 0x80000000 0xFFFFFFFF 0 0 0) .hl) = -2 ^ 31 ∧
      asSigned 32 (operand 32 (st 0x80000000 0xFFFFFFFF 0 0 0) .de) = -1) ∧
    asSigned 32 (operand 32 (st 0x80000001 0xFFFFFFFF 0 0 0) .hl) ≠ -2 ^ 31 ∧
    (asSigned 64 (operand 64 (st 0x8000000000000000 (-1) 0 0 0) .hl) = -2 ^ 63 ∧
      asSigned 64 (operand 64 (st 0x8000000000000000 (-1) 0 0 0) .de) = -1) ∧
    asSigned 64 (operand 64 (st 0x8000000000000000 (-2) 0 0 0) .de) ≠ -1 := by decide

theorem test_witness_SignedRemainder :
    operand 32 (st 7 0 0 0 0) .de = 0 ∧ operand 32 (st 0x80000000 0xFFFFFFFF 0 0 0) .de ≠ 0 ∧
    traps (.rems64 .a .hl .de) (st 7 0 0 0 0) .divideByZero = true := by decide

/-- The greatest field values of the third clause. -/
theorem test_witness_CpWritesTheDifference :
    (15 : Nat) < 16 ∧ (4095 : Nat) < 4096 ∧ rejectedFor [baseWord 0x03 4 0 2 0, 0#32, 0#32] = some .extCountNotAllowed := by decide

/-- Accesses that end at the last byte, one past it, and one that begins at -1. -/
theorem test_witness_MemoryPrimitives :
    (0 : Int) ≤ 65528 ∧ (65528 : Int) + (8 : Nat) ≤ (st 0 0 0 0 0).cfg.memSize ∧
    (65529 : Int) + (8 : Nat) > (st 0 0 0 0 0).cfg.memSize ∧ (-1 : Int) < 0 ∧
    (st 0 0 0 0 0).memRead (-1) 1 = .error (.memoryBounds (-1) 1) := by decide

/-- A wide store at the first and at the last address that holds it. -/
theorem test_witness_NarrowLoadSeesTheWideStore :
    ((st 0 0 0 0 0).memWrite 0 8 0x1122334455667788).toOption.isSome = true ∧
    ((st 0 0 0 0 0).memWrite 65528 8 0x1122334455667788).toOption.isSome = true := by decide

/-- In bounds at both ends of memory, out of bounds one past the end and at -1, for a load of one and of eight bytes. -/
theorem test_witness_ZeroExtendingLoads :
    (st 65535 0 0 0 0).effectiveAddress .hl 0 = 65535 ∧ (65535 : Int) + (1 : Nat) ≤ (st 65535 0 0 0 0).cfg.memSize ∧
    (st 0 0 0 0 0).effectiveAddress .hl (-1) = -1 ∧
    (((st 65528 0 0 0 0).reg .hl).toNat : Int) + asSigned 12 (0#12).toNat = 65528 ∧
    ¬ ((65529 : Int) + (8 : Nat) ≤ (st 65529 0 0 0 0).cfg.memSize) := by decide

theorem test_witness_SignExtendingLoads :
    (((st 65536 0 0 0 0).reg .hl).toNat : Int) + asSigned 12 (0xFFF#12).toNat = 65535 ∧
    (65535 : Int) + (1 : Nat) ≤ (st 65536 0 0 0 0).cfg.memSize ∧ ¬ ((65535 : Int) + (2 : Nat) ≤ (st 65536 0 0 0 0).cfg.memSize) := by
  decide

theorem test_witness_StoresWriteTheirBytes :
    (st 65528 0 1 0 0).effectiveAddress .hl 0 = 65528 ∧ (65528 : Int) + (8 : Nat) ≤ (st 65528 0 1 0 0).cfg.memSize ∧
    (st 65529 0 1 0 0).effectiveAddress .hl 0 = 65529 ∧ ¬ ((65529 : Int) + (8 : Nat) ≤ (st 65529 0 1 0 0).cfg.memSize) ∧
    (st 0 0 1 0 0).effectiveAddress .hl (-4) = -4 := by decide

/-- Taken with either base, not taken, and one rejected word for each reason. -/
theorem test_witness_JrJumpsOnItsCondition :
    condTable 32 .eq (st 0 0 0 0 0).cmp.toNat = true ∧ (st 0 0 0 0 0).cfg.jrBase = .thisInstr ∧
    ({ st 0 0 0 0 0 with cfg := { jrBase := .nextInstr } } : State).cfg.jrBase = .nextInstr ∧
    condTable 32 .ne (st 0 0 0 0 0).cmp.toNat = false ∧
    rejectedFor [baseWord 0x02 1 0 0 0] = some .unusedFieldNotZero ∧ rejectedFor [baseWord 0x02 0 11 0 0] = some .reservedCondition ∧
    rejectedFor [baseWord 0x02 0 0 2 0] = some .extCountNotAllowed ∧
    rejectedFor [baseWord 0x02 15 15 15 4095] = some .unusedFieldNotZero ∧
    rejectedFor [baseWord 0x02 0 0 1 1, 0#32] = some .headerImmNotZero := by decide

/-- Room for one more entry, no room, and room without limit; a word with `RD`, one with `RS1`. -/
theorem test_witness_CallPushesAndGoes :
    ({ st 0 0 0 0 0 with cfg := { callDepth := some 1 } } : State).cfg.callDepth ≠ some (st 0 0 0 0 0).rs.length ∧
    ({ st 0 0 0 0 0 with cfg := { callDepth := some 0 } } : State).cfg.callDepth = some (st 0 0 0 0 0).rs.length ∧
    ({ st 0 0 0 0 0 with cfg := { callDepth := none } } : State).cfg.callDepth ≠ some (st 0 0 0 0 0).rs.length ∧
    rejectedFor [baseWord 0x00 1 0 0 0] = some .callRdNotZero ∧ rejectedFor [baseWord 0x00 0 1 0 0] = some .unusedFieldNotZero := by
  decide

/-- A stack with an entry, an empty one, a step that halts, a rejected word of the opcode. -/
theorem test_witness_RetReturnsOrHalts :
    ({ st 0 0 0 0 0 with rs := [8, 4] } : State).rs = [8, 4] ∧ (st 0 0 0 0 0).rs = [] ∧
    stepsTo (running 0x01000000#32) (fun t => t.status == .halted) = true ∧
    opcodeByte 0x01000001#32 = 0x01 ∧ (0x01000001#32 ≠ 0x01000000#32) := by decide

/-- A temporary that is not the source, once the destination itself. -/
theorem test_witness_IdiomsDoAsWanted : Reg.ix ≠ Reg.hl ∧ Reg.a ≠ Reg.hl ∧
    idiomAddConst .a .hl .a 100000 = [.ldX32 .a 100000, .add64 .a .hl .a] := by decide

theorem test_witness_DropOnlyAdvances : opcodeByte 0x04FFFFFF#32 = 0x04 ∧ (0x04FFFFFF#32 ≠ 0x04000000#32) := by decide

/-- A range that ends at the end of memory, an empty one there, another word of the opcode. -/
theorem test_witness_FillFillsTheRange :
    ((st 65532 0 7 4 0).reg .hl).toNat + ((st 65532 0 7 4 0).reg .bc).toNat ≤ (st 65532 0 7 4 0).cfg.memSize ∧
    ((st 65536 0 7 0 0).reg .hl).toNat + ((st 65536 0 7 0 0).reg .bc).toNat ≤ (st 65536 0 7 0 0).cfg.memSize ∧
    opcodeByte 0x91023001#32 = 0x91 ∧ (0x91023001#32 ≠ 0x91023000#32) := by decide

/-- Both ranges at their bounds, without upward overlap and with it. -/
theorem test_witness_LdirCopiesUpwards :
    ((st 65532 0 7 4 0).reg .hl).toNat + ((st 65532 0 7 4 0).reg .bc).toNat ≤ (st 65532 0 7 4 0).cfg.memSize ∧
    ((st 65532 0 7 4 0).reg .de).toNat + ((st 65532 0 7 4 0).reg .bc).toNat ≤ (st 65532 0 7 4 0).cfg.memSize ∧
    ((st 65531 65532 7 4 0).reg .hl).toNat < ((st 65531 65532 7 4 0).reg .de).toNat ∧
    ((st 65531 65532 7 4 0).reg .de).toNat < ((st 65531 65532 7 4 0).reg .hl).toNat + ((st 65531 65532 7 4 0).reg .bc).toNat ∧
    ((st 65531 65532 7 4 0).reg .de).toNat + ((st 65531 65532 7 4 0).reg .bc).toNat ≤ (st 65531 65532 7 4 0).cfg.memSize ∧
    opcodeByte 0x90000000#32 = 0x90 ∧ (0x90000000#32 ≠ 0x90103000#32) := by decide

/-- One byte past the end: the range of `FILL`, the source of `LDIR`, the destination of `LDIR`. -/
theorem test_witness_MacroOpsTrapOutOfBounds :
    (st 65533 0 7 4 0).cfg.memSize < ((st 65533 0 7 4 0).reg .hl).toNat + ((st 65533 0 7 4 0).reg .bc).toNat ∧
    (st 0 65533 7 4 0).cfg.memSize < ((st 0 65533 7 4 0).reg .de).toNat + ((st 0 65533 7 4 0).reg .bc).toNat ∧
    ¬ ((st 0 65533 7 4 0).cfg.memSize < ((st 0 65533 7 4 0).reg .hl).toNat + ((st 0 65533 7 4 0).reg .bc).toNat) := by decide

end Sys2Proof.Tests
end

section
/-! What every step keeps (spec/10_state.md): how data memory, the return stack, the status, `CMP` and the program counter can
differ after one instruction, each once over `Effect`; and the invariant of a run. -/

namespace Sys2Proof.Machine

/-! ### The frames of the ends of `FILL` and `LDIR`, field by field, and of a trap -/

@[simp] theorem State.macroEnd_pc (s : State) (rs : List Reg) : (s.macroEnd rs).pc = s.nextPc 1 := by
  simp only [s.macroEnd_frame rs]
@[simp] theorem State.macroEnd_rs (s : State) (rs : List Reg) : (s.macroEnd rs).rs = s.rs := by
  simp only [s.macroEnd_frame rs]
@[simp] theorem State.macroEnd_mem (s : State) (rs : List Reg) : (s.macroEnd rs).mem = s.mem := by
  simp only [s.macroEnd_frame rs]
@[simp] theorem State.macroEnd_status (s : State) (rs : List Reg) : (s.macroEnd rs).status = s.status := by
  simp only [s.macroEnd_frame rs]
@[simp] theorem State.macroEnd_prog (s : State) (rs : List Reg) : (s.macroEnd rs).prog = s.prog := by
  simp only [s.macroEnd_frame rs]
@[simp] theorem State.macroEnd_cfg (s : State) (rs : List Reg) : (s.macroEnd rs).cfg = s.cfg := by
  simp only [s.macroEnd_frame rs]

@[simp] theorem State.macroTrap_cmp (s : State) (d n : Nat) (rs : List Reg) (c : Trap) :
    (s.macroTrap d n rs c).cmp = s.cmp := by
  simp only [s.macroTrap_frame d n rs c]
@[simp] theorem State.macroTrap_pc (s : State) (d n : Nat) (rs : List Reg) (c : Trap) :
    (s.macroTrap d n rs c).pc = s.pc := by
  simp only [s.macroTrap_frame d n rs c]
@[simp] theorem State.macroTrap_rs (s : State) (d n : Nat) (rs : List Reg) (c : Trap) :
    (s.macroTrap d n rs c).rs = s.rs := by
  simp only [s.macroTrap_frame d n rs c]
@[simp] theorem State.macroTrap_status (s : State) (d n : Nat) (rs : List Reg) (c : Trap) :
    (s.macroTrap d n rs c).status = .trapped c s.pc := by
  simp only [s.macroTrap_frame d n rs c]
@[simp] theorem State.macroTrap_prog (s : State) (d n : Nat) (rs : List Reg) (c : Trap) :
    (s.macroTrap d n rs c).prog = s.prog := by
  simp only [s.macroTrap_frame d n rs c]
@[simp] theorem State.macroTrap_cfg (s : State) (d n : Nat) (rs : List Reg) (c : Trap) :
    (s.macroTrap d n rs c).cfg = s.cfg := by
  simp only [s.macroTrap_frame d n rs c]

@[simp] theorem State.raise_fetchFaults (s : State) (c : Trap) : (s.raise c).fetchFaults = s.fetchFaults := rfl
@[simp] theorem State.raise_codeAtPc (s : State) (c : Trap) : (s.raise c).codeAtPc = s.codeAtPc := rfl
@[simp] theorem State.raise_callStackFull (s : State) (c : Trap) : (s.raise c).callStackFull = s.callStackFull := rfl

/-! ### What an instruction can do to each part of the state -/

/-- No instruction writes instruction space or the parameters (R22, R27, R45). -/
theorem Effect.sameProgram {i : Instr} {s t : State} (h : Effect i s t) : SameProgram s t := by
  cases h
  case fills | copies | macroOutOfBounds => simp [SameProgram]
  all_goals exact ⟨rfl, rfl⟩

/-- Bytes of data memory are written from an address up, or copied, every one inside data memory (R23). -/
inductive MemoryWrite (s : State) : Memory → Prop where
  | bytes (x : Nat) (bs : List Byte) (hx : x + bs.length ≤ s.cfg.memSize) : MemoryWrite s (Memory.writeBytes s.mem x bs)
  | copy (src x n : Nat) (hx : x + n ≤ s.cfg.memSize) : MemoryWrite s (Memory.copyUp s.mem src x n)

/-- What `FILL` or `LDIR` does to memory where it traps: it writes bytes inside it, or none (R255). -/
theorem State.macroTrap_memoryWrite (s : State) (dst n : Nat) (scratch : List Reg) (c : Trap) :
    (s.macroTrap dst n scratch c).mem = s.mem ∨ MemoryWrite s (s.macroTrap dst n scratch c).mem := by
  rw [State.macroTrap_mem]
  by_cases hd : dst ≤ s.cfg.memSize
  · refine .inr (.bytes _ _ ?_)
    simp only [List.length_map, List.length_range, State.inBoundsCount]
    omega
  · have hn : s.inBoundsCount dst n = 0 := by
      unfold State.inBoundsCount
      omega
    exact .inl (by rw [hn]; rfl)

/-- Data memory is as before, or a store, `FILL` or `LDIR` wrote bytes inside it (R40). -/
theorem Effect.mem_cases {i : Instr} {s t : State} (h : Effect i s t) :
    t.mem = s.mem ∨ (isStore i = true ∨ isMacroOp i = true) ∧ MemoryWrite s t.mem := by
  cases h
  case stores hi x bs hx => exact .inr ⟨.inl hi, .bytes x bs hx⟩
  case fills hi x bs hx => exact .inr ⟨.inr hi, .bytes x bs hx⟩
  case copies hi src x n hx => exact .inr ⟨.inr hi, .copy src x n hx⟩
  case macroOutOfBounds hi _ _ => exact (s.macroTrap_memoryWrite _ _ _ _).imp_right (⟨.inr hi, ·⟩)
  all_goals exact .inl rfl

theorem MemoryWrite.wf {s : State} {m : Memory} (h : MemoryWrite s m) (hs : Memory.wf s.mem = true) :
    Memory.wf m = true := by
  cases h with
  | bytes x bs => exact Memory.writeBytes_wf hs x bs
  | copy src x n => exact Memory.copyUp_wf hs src x n

theorem MemoryWrite.within {s : State} {m : Memory} (h : MemoryWrite s m)
    (hs : Memory.within s.cfg.memSize s.mem = true) : Memory.within s.cfg.memSize m = true := by
  cases h with
  | bytes x bs hx => exact Memory.writeBytes_within hs x bs (.inr hx)
  | copy src x n hx => exact Memory.copyUp_within hs src x n (.inr hx)

/-- A byte outside data memory is never written (R23). -/
theorem MemoryWrite.read_outside {s : State} {m : Memory} (h : MemoryWrite s m) {a : Nat} (ha : s.cfg.memSize ≤ a) :
    Memory.read m a = Memory.read s.mem a := by
  cases h with
  | bytes x bs hx => exact Memory.read_writeBytes_outside _ _ _ _ (by omega)
  | copy src x n hx => exact Memory.read_copyUp_outside _ _ _ _ _ (by omega)

/-- The return stack is as before, or `CALL` pushed the address of the next instruction on one with room, or `RET` removed the
top entry (R18). -/
theorem Effect.rs_cases {i : Instr} {s t : State} (h : Effect i s t) :
    t.rs = s.rs ∨ (isCall i = true ∧ s.callStackFull = false ∧ t.rs = s.nextPc i.len :: s.rs) ∨
      (i = .ret ∧ ∃ ret, s.rs = ret :: t.rs) := by
  cases h
  case calls hi hf _ => exact .inr (.inl ⟨hi, hf, rfl⟩)
  case returns hi ret _ hrs => exact .inr (.inr ⟨hi, ret, hrs⟩)
  case fills | copies | macroOutOfBounds => exact .inl (by simp)
  all_goals exact .inl rfl

/-- `CMP` is as before, or a `CP` ran, or `FILL` or `LDIR` completed (R16, R309). -/
theorem Effect.cmp_cases {i : Instr} {s t : State} (h : Effect i s t) :
    t.cmp = s.cmp ∨ isCp i = true ∨ isMacroOp i = true ∧ t.status = s.status := by
  cases h
  case compares hi _ => exact .inr (.inl hi)
  case fills hi _ _ _ | copies hi _ _ _ _ => exact .inr (.inr ⟨hi, by simp⟩)
  case macroOutOfBounds => exact .inl (by simp)
  all_goals exact .inl rfl

theorem isMacroOp_iff {i : Instr} : isMacroOp i = true ↔ i = .ldir ∨ i = .fill := by
  cases i <;> simp [isMacroOp]

theorem len_of_isMacroOp {i : Instr} (h : isMacroOp i = true) : i.len = 1 := by
  rcases isMacroOp_iff.mp h with rfl | rfl <;> rfl

/-- `FILL` and `LDIR` keep the return stack, and where they trap `CMP` too (R255, R309). -/
theorem Effect.macroOp_frame {i : Instr} {s t : State} (h : Effect i s t) (hi : isMacroOp i = true) :
    t.rs = s.rs ∧ (t.status ≠ s.status → t.cmp = s.cmp) := by
  have hrs := h.rs_cases
  have hcmp := h.cmp_cases
  rcases isMacroOp_iff.mp hi with rfl | rfl
  · exact ⟨by simpa [isCall] using hrs, fun ht => by simpa [isCp, ht] using hcmp⟩
  · exact ⟨by simpa [isCall] using hrs, fun ht => by simpa [isCp, ht] using hcmp⟩

/-- An instruction that leaves the machine running and is no `JR`, `CALL` or `RET` ends at the next instruction (R15). -/
theorem Effect.advancedBy {i : Instr} {s t : State} (h : Effect i s t) (ht : t.status = .running)
    (hj : isJr i = false) (hc : isCall i = false) (hr : i ≠ .ret) : AdvancedBy i.len s t := by
  have advanced (u : State) (hu : u.pc = s.nextPc i.len) : AdvancedBy i.len s u := by
    rw [AdvancedBy, hu, State.nextPc_toNat]
  cases h
  case jumps hi _ => simp [hi] at hj
  case calls hi _ _ => simp [hi] at hc
  case returns hi _ _ _ => exact absurd hi hr
  case halts hi _ => exact absurd hi hr
  case fills hi _ _ _ | copies hi _ _ _ _ => exact advanced _ (by rw [State.macroEnd_pc, len_of_isMacroOp hi]; rfl)
  case macroOutOfBounds => simp at ht
  case dividesByZero | overflows | outOfBounds | callStackFull => cases ht
  all_goals exact advanced _ rfl

/-! ### The invariant of a run -/

theorem State.inv_iff (s : State) : s.inv = true ↔ Memory.wf s.mem = true ∧ Memory.within s.cfg.memSize s.mem = true ∧
    s.stackWithin = true ∧ s.stackAligned = true ∧ s.statusTruthful = true := by
  simp only [State.inv, Bool.and_eq_true, and_assoc]

theorem State.stackWithin_iff (s : State) :
    s.stackWithin = true ↔ ∀ d, s.cfg.callDepth = some d → s.rs.length ≤ d := by
  unfold State.stackWithin
  cases s.cfg.callDepth <;> simp

theorem State.stackAligned_iff (s : State) : s.stackAligned = true ↔ ∀ a ∈ s.rs, a.toNat % 4 = 0 := by
  simp [State.stackAligned]

theorem State.callStackFull_iff (s : State) : s.callStackFull = true ↔ s.cfg.callDepth = some s.rs.length := by
  unfold State.callStackFull
  cases s.cfg.callDepth <;> simp [eq_comm]

theorem State.statusTruthful_of_running {s : State} (h : s.status = .running) : s.statusTruthful = true := by
  simp [State.statusTruthful, h]

/-- Where a data access out of bounds has trapped, the access recorded is still out of bounds (R305). -/
theorem State.statusTruthful_of_memoryBounds {s : State} {addr : Int} {n : Nat}
    (h : s.status = .trapped (.memoryBounds addr n) s.pc) (hb : s.inBounds addr n = false) : s.statusTruthful = true := by
  simp [State.statusTruthful, h, hb]

/-- The return stack keeps to its capacity: a `CALL` pushes only where there is room (R18, R244). -/
theorem Effect.stackWithin {i : Instr} {s t : State} (h : Effect i s t) (hs : s.stackWithin = true) :
    t.stackWithin = true := by
  rw [State.stackWithin_iff] at hs ⊢
  rw [h.sameProgram.2]
  intro d hd
  have hd' := hs d hd
  rcases h.rs_cases with hrs | ⟨-, hf, hrs⟩ | ⟨-, ret, hrs⟩
  · rwa [hrs]
  · have hroom : s.rs.length ≠ d := by
      rintro rfl
      simp [s.callStackFull_iff.mpr hd] at hf
    rw [hrs, List.length_cons]
    omega
  · rw [hrs, List.length_cons] at hd'
    omega

/-- The return stack stays aligned: what a `CALL` pushes is an aligned program counter plus whole words (R35, R245). -/
theorem Effect.stackAligned {i : Instr} {s t : State} (h : Effect i s t) (hpc : s.pc.toNat % 4 = 0)
    (hs : s.stackAligned = true) : t.stackAligned = true := by
  rw [State.stackAligned_iff] at hs ⊢
  rcases h.rs_cases with hrs | ⟨-, -, hrs⟩ | ⟨-, ret, hrs⟩
  · rwa [hrs]
  · rw [hrs]
    exact List.forall_mem_cons.mpr ⟨s.nextPc_aligned _ hpc, hs⟩
  · rw [hrs] at hs
    exact (List.forall_mem_cons.mp hs).2

/-- Where an instruction of a running machine ends the run, the status it leaves tells the truth (R301, R345). -/
theorem Effect.statusTruthful {i : Instr} {s t : State} (h : Effect i s t) (hs : s.status = .running) :
    t.statusTruthful = true := by
  cases h
  case halts _ hrs => simp [State.statusTruthful, hrs]
  case dividesByZero | overflows => simp [State.statusTruthful]
  case outOfBounds _ addr n hb => exact State.statusTruthful_of_memoryBounds rfl hb
  case callStackFull _ hf => simp [State.statusTruthful, hf]
  case fills | copies => exact State.statusTruthful_of_running (by simp [hs])
  case macroOutOfBounds addr hb =>
    exact State.statusTruthful_of_memoryBounds (addr := addr) (n := (s.reg .bc).toNat) (by simp)
      (by simpa [State.inBounds] using hb)
  all_goals exact State.statusTruthful_of_running hs

/-- The status after a trap of the fetch tells the truth: the fault, or the rejected base word, is still there (R302, R306). -/
theorem State.statusTruthful_raise_of_fetch {s : State} {c : Trap} (h : s.fetch = .error c) :
    (s.raise c).statusTruthful = true := by
  rcases State.fetch_error_cases h with ⟨hf, rfl⟩ | ⟨hf, ⟨r, hd⟩, rfl⟩
  · simp [State.statusTruthful, hf]
  · simp [State.statusTruthful, hf, hd, Except.toOption]

/-- An instruction of a running machine keeps the invariant, from an aligned program counter. -/
theorem Effect.inv {i : Instr} {s t : State} (h : Effect i s t) (hr : s.status = .running) (hpc : s.pc.toNat % 4 = 0)
    (hs : s.inv = true) : t.inv = true := by
  obtain ⟨hwf, hwithin, hdepth, haligned, -⟩ := s.inv_iff.mp hs
  have hmem : Memory.wf t.mem = true ∧ Memory.within s.cfg.memSize t.mem = true := by
    rcases h.mem_cases with hm | ⟨-, hm⟩
    · exact hm ▸ ⟨hwf, hwithin⟩
    · exact ⟨hm.wf hwf, hm.within hwithin⟩
  rw [State.inv_iff, h.sameProgram.2]
  exact ⟨hmem.1, hmem.2, h.stackWithin hdepth, h.stackAligned hpc haligned, h.statusTruthful hr⟩

/-- A trap of the fetch keeps the invariant. -/
theorem State.inv_raise_of_fetch {s : State} {c : Trap} (h : s.fetch = .error c) (hs : s.inv = true) :
    (s.raise c).inv = true := by
  obtain ⟨hwf, hwithin, hdepth, haligned, -⟩ := s.inv_iff.mp hs
  exact (State.inv_iff _).mpr ⟨hwf, hwithin, hdepth, haligned, State.statusTruthful_raise_of_fetch h⟩

/-- Settles O15: a trap of the fetch and an instruction fetched each keep the invariant; where the fetch succeeds, the program
counter is aligned. -/
theorem everyStepKeepsTheInvariant : Obligations.EveryStepKeepsTheInvariant := by
  intro s t hs h
  obtain ⟨hr, ⟨c, hc, rfl⟩ | ⟨i, hi, he⟩⟩ := step_cases h
  · exact State.inv_raise_of_fetch hc hs
  · obtain ⟨hf, -⟩ := (s.fetch_ok_iff i).mp hi
    exact (exec_effect he).inv hr (State.aligned_of_fetch hf) hs

theorem State.start_inv (cfg : Config) (prog : List Word32) {m : Memory} (regs : Regs) (cmp : Word32)
    (hwf : Memory.wf m = true) (hwithin : Memory.within cfg.memSize m = true) :
    (State.start cfg prog m regs cmp).inv = true :=
  (State.inv_iff _).mpr ⟨hwf, hwithin, (State.stackWithin_iff _).mpr fun _ _ => Nat.zero_le _, rfl,
    State.statusTruthful_of_running rfl⟩

/-- Settles O14: the return stack is empty at the start and the status is Running. -/
theorem invariantHoldsAtStart : Obligations.InvariantHoldsAtStart :=
  ⟨State.start_inv _ _ _ _ rfl rfl, fun cfg prog _ regs cmp => State.start_inv cfg prog regs cmp⟩

/-- Settles O12: `step` runs nothing but a Running state (R20). -/
theorem terminalStatesHaveNoSuccessor : Obligations.TerminalStatesHaveNoSuccessor := by
  constructor
  · intro s hs
    simp [step, hs]
  · intro s c p hs
    simp [step, hs]

/-- Settles O16: neither a trap of the fetch nor an instruction writes instruction space or the parameters. -/
theorem programNeverChanges : Obligations.ProgramNeverChanges := by
  intro s t h
  obtain ⟨-, ⟨c, -, rfl⟩ | ⟨i, -, he⟩⟩ := step_cases h
  · exact ⟨rfl, rfl⟩
  · exact (exec_effect he).sameProgram

/-- Settles O21: what differs from before was written, and every byte written is inside data memory. -/
theorem onlyStoresChangeMemory : Obligations.OnlyStoresChangeMemory := by
  intro i s t a h hne
  rcases (exec_effect h).mem_cases with hm | ⟨hi, hm⟩
  · exact absurd (by rw [hm]) hne
  · exact ⟨hi, Nat.lt_of_not_le fun ha => hne (hm.read_outside ha)⟩

/-- Settles O22: of the ways an instruction can end, the others leave a status that is not Running. -/
theorem programCounterAdvances : Obligations.ProgramCounterAdvances := by
  intro i s t _ h ht hj hc hr
  exact (exec_effect h).advancedBy ht hj hc hr

end Sys2Proof.Machine
end

section
/-! Who reads `CMP` and the return stack (R16, R18): the instructions run from a state in which both are replaced. -/

namespace Sys2Proof.Machine

/-! ### The instructions that read one of the two, each by the shared operation it is -/

theorem exec_of_isCall {i : Instr} (h : isCall i = true) :
    ∃ target, ∀ s, exec i s = callAbsolute target i.len s := by
  cases i
  case call | callX32 | callX64 => exact ⟨_, fun _ => rfl⟩
  all_goals cases h

theorem exec_of_isCp {i : Instr} (h : isCp i = true) :
    ∃ rd imm, ∀ s, exec i s = compareWith rd imm i.len s := by
  cases i
  case cp | cpX32 => exact ⟨_, _, fun _ => rfl⟩
  all_goals cases h

theorem exec_of_isJr {i : Instr} (h : isJr i = true) :
    ∃ cc disp, isConditionalJr i = decide (cc ≠ .al) ∧ ∀ s, exec i s = jumpRelative cc disp i.len s := by
  cases i
  case jr | jrX32 => exact ⟨_, _, rfl, fun _ => rfl⟩
  all_goals cases h

/-! ### `CMP` and the return stack replaced -/

/-- The state with `CMP` and the return stack replaced, all else as it was. -/
def State.withCmpRs (s : State) (v : Word32) (rs : List Word) : State := (s.setCmp v).setRs rs

section
variable {s t : State} (v : Word32) (rs : List Word)

@[simp] theorem State.withCmpRs_cmp : (s.withCmpRs v rs).cmp = v := rfl
@[simp] theorem State.withCmpRs_pc : (s.withCmpRs v rs).pc = s.pc := rfl
@[simp] theorem State.withCmpRs_rs : (s.withCmpRs v rs).rs = rs := rfl
@[simp] theorem State.withCmpRs_mem : (s.withCmpRs v rs).mem = s.mem := rfl
@[simp] theorem State.withCmpRs_status : (s.withCmpRs v rs).status = s.status := rfl
@[simp] theorem State.withCmpRs_prog : (s.withCmpRs v rs).prog = s.prog := rfl
@[simp] theorem State.withCmpRs_cfg : (s.withCmpRs v rs).cfg = s.cfg := rfl
@[simp] theorem State.withCmpRs_reg (q : Reg) : (s.withCmpRs v rs).reg q = s.reg q := rfl

theorem State.withCmpRs_rs_self : s.withCmpRs v s.rs = s.setCmp v := rfl

theorem State.withCmpRs_cmp_self : s.withCmpRs s.cmp rs = s.setRs rs := rfl

theorem writeAndAdvance_withCmpRs {rd : Reg} {x : Word} {len : Nat} (h : writeAndAdvance rd x len s = .next t) :
    writeAndAdvance rd x len (s.withCmpRs v rs) = .next (t.withCmpRs v rs) := by
  cases h
  rfl

theorem writeOrTrap_withCmpRs {rd : Reg} {r : Except Trap Word} (h : writeOrTrap rd r s = .next t) :
    writeOrTrap rd r (s.withCmpRs v rs) = .next (t.withCmpRs v rs) := by
  rcases writeOrTrap_cases h with ⟨x, rfl, rfl⟩ | ⟨c, rfl, rfl⟩
  · rfl
  · rfl

theorem storeReg_withCmpRs {n : Nat} {rs1 rs2 : Reg} {imm : BitVec 12} (h : storeReg n rs1 rs2 imm s = .next t) :
    storeReg n rs1 rs2 imm (s.withCmpRs v rs) = .next (t.withCmpRs v rs) := by
  have hbounds : (s.withCmpRs v rs).inBounds ((s.withCmpRs v rs).effectiveAddress rs1 imm) n =
    s.inBounds (s.effectiveAddress rs1 imm) n := rfl
  rcases storeReg_cases h with ⟨hb, rfl⟩ | ⟨hb, rfl⟩
  · simp only [storeReg, State.memWrite, hbounds, hb, if_true]
    rfl
  · simp only [storeReg, State.memWrite, hbounds, hb]
    rfl

/-- An instruction other than `CALL`, `RET`, `CP`, `JR`, `FILL` and `LDIR` reads and writes neither `CMP` nor the return stack:
its operands are registers, memory and the program counter. -/
theorem exec_withCmpRs {i : Instr} (hcall : isCall i = false) (hret : i ≠ .ret) (hcp : isCp i = false) (hjr : isJr i = false)
    (hm : isMacroOp i = false) (h : exec i s = .next t) : exec i (s.withCmpRs v rs) = .next (t.withCmpRs v rs) := by
  cases i
  case call | callX32 | callX64 => cases hcall
  case ret => exact absurd rfl hret
  case cp | cpX32 => cases hcp
  case jr | jrX32 => cases hjr
  case fill | ldir => cases hm
  case drop =>
    cases h
    rfl
  case divs | divu | rems | remu | divs64 | divu64 | rems64 | remu64 => exact writeOrTrap_withCmpRs v rs h
  case ld8u | ld8s | ld16u | ld16s | ld32 | ld64 | ld8u64 | ld8s64 | ld16u64 | ld16s64 | ld32u64 | ld32s64 =>
    exact writeOrTrap_withCmpRs v rs h
  case st8 | st8_64 | st16 | st16_64 | st32 | st32_64 | st64 => exact storeReg_withCmpRs v rs h
  all_goals exact writeAndAdvance_withCmpRs v rs h

/-- `FILL` and `LDIR` test and write by registers, memory and parameters: from a state with other `CMP` and return stack they
trap alike or complete alike (R253, R254). -/
theorem exec_macroOp_cases {i : Instr} (hi : isMacroOp i = true) :
    (∃ d n c, exec i s = .next (s.macroTrap d n (macroScratch i) c) ∧
      exec i (s.withCmpRs v rs) = .next ((s.withCmpRs v rs).macroTrap d n (macroScratch i) c)) ∨
    (∃ m, exec i s = .next ((s.setMem m).macroEnd (macroScratch i)) ∧
      exec i (s.withCmpRs v rs) = .next (((s.withCmpRs v rs).setMem m).macroEnd (macroScratch i))) := by
  cases i
  case fill =>
    by_cases hd : s.cfg.memSize < (s.reg .hl).toNat + (s.reg .bc).toNat
    · exact .inl ⟨_, _, _, if_pos hd, if_pos hd⟩
    · exact .inr ⟨_, if_neg hd, if_neg hd⟩
  case ldir =>
    by_cases hsrc : s.cfg.memSize < (s.reg .hl).toNat + (s.reg .bc).toNat
    · exact .inl ⟨_, _, _, if_pos hsrc, if_pos hsrc⟩
    · by_cases hd : s.cfg.memSize < (s.reg .de).toNat + (s.reg .bc).toNat
      · exact .inl ⟨_, _, _, (if_neg hsrc).trans (if_pos hd), (if_neg hsrc).trans (if_pos hd)⟩
      · exact .inr ⟨_, (if_neg hsrc).trans (if_neg hd), (if_neg hsrc).trans (if_neg hd)⟩
  all_goals cases hi

/-- `FILL` and `LDIR` do the same whatever `CMP` and the return stack hold, but for what R255 leaves unspecified; they keep the
return stack, and where they trap `CMP` too. -/
theorem exec_macroOp_withCmpRs {i : Instr} (hi : isMacroOp i = true) (hs : s.status = .running) (h : exec i s = .next t) :
    Completes i (s.withCmpRs v rs)
      (fun u => SameButUnspecified i t u ∧ u.rs = rs ∧ (t.status ≠ .running → u.cmp = v)) := by
  rcases exec_macroOp_cases (s := s) v rs hi with ⟨d, n, c, he, hu⟩ | ⟨m, he, hu⟩
  · obtain rfl : s.macroTrap d n (macroScratch i) c = t := by simpa [he] using h
    refine ⟨_, hu, ⟨by simp, by simp, by simp [SameProgram], fun r hr => ?_, by simp⟩, by simp, by simp⟩
    simp [State.macroTrap_reg _ _ _ _ _ hr]
  · obtain rfl : (s.setMem m).macroEnd (macroScratch i) = t := by simpa [he] using h
    refine ⟨_, hu, ⟨by simp [State.nextPc], by simp, by simp [SameProgram], fun r hr => ?_, by simp [SameMemory]⟩, by simp,
      by simp [hs]⟩
    simp [State.macroEnd_reg _ _ hr]

end

/-! ### Each of the two by itself -/

theorem exec_ret_of_nil {s : State} (h : s.rs = []) : exec .ret s = .next s.halt := by
  show execRet s = _
  simp [execRet, h]

theorem exec_ret_of_cons {s : State} {ret : Word} {rest : List Word} (h : s.rs = ret :: rest) :
    exec .ret s = .next ((s.setRs rest).setPc ret) := by
  show execRet s = _
  simp [execRet, h]

/-- `RET` does the same whatever `CMP` holds (R245). -/
theorem exec_ret_setCmp {s t : State} (v : Word32) (h : exec .ret s = .next t) :
    exec .ret (s.setCmp v) = .next (t.setCmp v) := by
  cases hrs : s.rs with
  | nil =>
    obtain rfl : s.halt = t := by simpa [exec_ret_of_nil hrs] using h
    exact exec_ret_of_nil hrs
  | cons ret rest =>
    obtain rfl : (s.setRs rest).setPc ret = t := by simpa [exec_ret_of_cons hrs] using h
    exact exec_ret_of_cons hrs

/-- `CALL` does the same whatever `CMP` holds (R244). -/
theorem callAbsolute_setCmp {target : Word} {len : Nat} {s t : State} (v : Word32) (h : callAbsolute target len s = .next t) :
    callAbsolute target len (s.setCmp v) = .next (t.setCmp v) := by
  have hfull : (s.setCmp v).callStackFull = s.callStackFull := rfl
  rcases callAbsolute_cases h with ⟨hf, rfl⟩ | ⟨hf, rfl⟩
  · exact if_pos (hfull.trans hf)
  · exact if_neg (by simp [hfull, hf])

/-- `JR` does the same whatever the return stack holds (R240). -/
theorem jumpRelative_setRs {cc : Cond} {disp : Int} {len : Nat} {s t : State} (rs : List Word)
    (h : jumpRelative cc disp len s = .next t) : jumpRelative cc disp len (s.setRs rs) = .next (t.setRs rs) := by
  rcases jumpRelative_cases h with ⟨hc, rfl⟩ | ⟨hc, rfl⟩
  · exact if_pos hc
  · exact if_neg hc

/-- An instruction other than `CP`, a conditional `JR`, `FILL` and `LDIR` does the same whatever `CMP` holds, and leaves it
(R16). -/
theorem exec_setCmp {i : Instr} {s t : State} (v : Word32) (hj : isConditionalJr i = false) (hm : isMacroOp i = false)
    (hcp : isCp i = false) (h : exec i s = .next t) : exec i (s.setCmp v) = .next (t.setCmp v) := by
  by_cases hcall : isCall i = true
  · obtain ⟨target, he⟩ := exec_of_isCall hcall
    rw [he] at h ⊢
    exact callAbsolute_setCmp v h
  by_cases hret : i = .ret
  · subst hret
    exact exec_ret_setCmp v h
  by_cases hjr : isJr i = true
  · obtain ⟨cc, disp, hcond, he⟩ := exec_of_isJr hjr
    obtain rfl : cc = .al := by simpa [hj] using hcond
    rw [he] at h ⊢
    cases h
    rfl
  · have hrs : t.rs = s.rs := by simpa [hcall, hret] using (exec_effect h).rs_cases
    have hu := exec_withCmpRs v s.rs (by simpa using hcall) hret hcp (by simpa using hjr) hm h
    rwa [← hrs, State.withCmpRs_rs_self, hrs, State.withCmpRs_rs_self] at hu

/-- An instruction other than `CALL`, `RET`, `FILL` and `LDIR` does the same whatever the return stack holds, and leaves it
(R18). -/
theorem exec_setRs {i : Instr} {s t : State} (rs : List Word) (hcall : isCall i = false) (hret : i ≠ .ret)
    (hm : isMacroOp i = false) (h : exec i s = .next t) : exec i (s.setRs rs) = .next (t.setRs rs) := by
  by_cases hcp : isCp i = true
  · obtain ⟨rd, imm, he⟩ := exec_of_isCp hcp
    rw [he] at h ⊢
    cases h
    rfl
  by_cases hjr : isJr i = true
  · obtain ⟨cc, disp, -, he⟩ := exec_of_isJr hjr
    rw [he] at h ⊢
    exact jumpRelative_setRs rs h
  · have hcmp : t.cmp = s.cmp := by simpa [hcp, hm] using (exec_effect h).cmp_cases
    have hu := exec_withCmpRs s.cmp rs hcall hret (by simpa using hcp) (by simpa using hjr) hm h
    rwa [← hcmp, State.withCmpRs_cmp_self, hcmp, State.withCmpRs_cmp_self] at hu

/-- `CP` does the same whatever `CMP` held, and writes it (R192). -/
theorem exec_setCmp_of_isCp {i : Instr} {s t : State} (v : Word32) (hcp : isCp i = true) (h : exec i s = .next t) :
    exec i (s.setCmp v) = .next t := by
  obtain ⟨rd, imm, he⟩ := exec_of_isCp hcp
  rw [he] at h ⊢
  cases h
  rfl

/-- What a `CALL` does to the return stack (R244). -/
theorem exec_call_rs {i : Instr} {s t : State} (hcall : isCall i = true) (h : exec i s = .next t) :
    (s.callStackFull = true ∧ t.rs = s.rs) ∨ (s.callStackFull = false ∧ t.rs = s.nextPc i.len :: s.rs) := by
  obtain ⟨target, he⟩ := exec_of_isCall hcall
  rw [he] at h
  rcases callAbsolute_cases h with ⟨hf, rfl⟩ | ⟨hf, rfl⟩
  · exact .inl ⟨hf, rfl⟩
  · exact .inr ⟨hf, rfl⟩

/-- Settles O19: who writes `CMP` is `Effect.cmp_cases`; who reads it shows in a run from a state with another `CMP`. -/
theorem compareRegisterIsForCpAndJr : Obligations.CompareRegisterIsForCpAndJr := by
  refine ⟨fun i s t h hne => ?_, fun i s t v hj hm h => ?_, fun i s t v hm hs h => ?_⟩
  · exact (exec_effect h).cmp_cases.resolve_left hne
  · cases hcp : isCp i with
    | true => exact exec_setCmp_of_isCp v hcp h
    | false => exact exec_setCmp v hj hm hcp h
  · rw [((exec_effect h).macroOp_frame hm).1]
    exact exec_macroOp_withCmpRs v s.rs hm hs h

/-- Settles O20: who writes the return stack is `Effect.rs_cases`; who reads it shows in a run from a state with another. -/
theorem returnStackIsForCallAndRet : Obligations.ReturnStackIsForCallAndRet := by
  refine ⟨fun i s t h hcall => ?_, fun s t h => ?_, fun i s t rs hcall hret hm h => ?_, fun i s t rs hm hs h => ?_⟩
  · rw [ne_eq, ← State.callStackFull_iff]
    rcases exec_call_rs hcall h with ⟨hf, hrs⟩ | ⟨hf, hrs⟩
    · simp [hf, hrs]
    · simp [hf, hrs, State.nextPc]
  · cases hrs : s.rs with
    | nil =>
      obtain rfl : s.halt = t := by simpa [exec_ret_of_nil hrs] using h
      exact hrs
    | cons ret rest =>
      obtain rfl : (s.setRs rest).setPc ret = t := by simpa [exec_ret_of_cons hrs] using h
      rfl
  · exact ⟨by simpa [hcall, hret] using (exec_effect h).rs_cases, exec_setRs rs hcall hret hm h⟩
  · obtain ⟨hrs, hcmp⟩ := (exec_effect h).macroOp_frame hm
    obtain ⟨u, hu, hsame, hurs, hucmp⟩ := exec_macroOp_withCmpRs s.cmp rs hm hs h
    exact ⟨hrs, u, hu, hsame, hurs, fun ht => (hucmp ht).trans (hcmp (hs ▸ ht)).symm⟩

end Sys2Proof.Machine
end

section
/-! The decoder reads back what the encoder writes (R64, R51 to R61): first the converse of `decodeFields_ok`, then one rule per
format, then the instructions. -/

namespace Sys2Proof

/-! ### The checks of R64, passed -/

/-- Where every check of R64 passes, the decoder answers the instruction built. -/
theorem decodeFields_eq_ok {scheme : ExtScheme} {op : Opcode} {f : Fields} {rest ext : List Word32} {i : Instr}
    (hop : f.op = op.code) (hu : unusedFieldsZero op.format f = true) (hr : registersLegal op.format f = true)
    (ho : opSpecific op f = none) (he : extWords scheme op f rest = .ok ext) (hb : build op f ext = some i) :
    decodeFields scheme f rest = .ok i := by
  simp [decodeFields, hop, hu, hr, ho, he, hb]

/-- The extension words of R58 are found in front of whatever words follow. -/
theorem extWords_append {scheme : ExtScheme} {op : Opcode} {f : Fields} {ext : List Word32} (rest : List Word32)
    (hx : extCount scheme op.format f = ext.length) (hmax : ext.length ≤ op.maxExt) (himm : ext = [] ∨ f.imm = 0#12) :
    extWords scheme op f (ext ++ rest) = .ok ext := by
  have hheader : ¬ (ext.length ≠ 0 ∧ f.imm ≠ 0#12) := by
    rintro ⟨hlen, hne⟩
    exact himm.elim (fun h => hlen (by simp [h])) hne
  simp only [extWords, hx]
  rw [if_neg (by omega), if_neg hheader, if_neg (by simp), List.take_left]

/-- Only formats `IMM`, `J` and the fixed `RRR` have opcodes with checks of their own (R64 step 5). -/
theorem opSpecific_eq_none {op : Opcode} (f : Fields) (himm : op.format ≠ .imm) (hj : op.format ≠ .j)
    (hfixed : op.format ≠ .rrrFixed) : opSpecific op f = none := by
  cases op
  case call => exact absurd rfl himm
  case jr => exact absurd rfl hj
  case ldir | fill => exact absurd rfl hfixed
  all_goals rfl

/-- A format with no extension words (R58). -/
theorem extWords_eq_nil {scheme : ExtScheme} {op : Opcode} (f : Fields) (rest : List Word32) (himm : op.format ≠ .imm)
    (hj : op.format ≠ .j) : extWords scheme op f rest = .ok [] := by
  have hx : extCount scheme op.format f = 0 := by
    cases hf : op.format
    case imm => exact absurd hf himm
    case j => exact absurd hf hj
    all_goals rfl
  exact extWords_append rest hx (Nat.zero_le _) (.inl rfl)

/-! ### The formats without extension words -/

section
variable {scheme : ExtScheme} {op : Opcode} (rest : List Word32)

/-- Formats `RRR`, `RRI12`, `MEM`, `STORE`, `R` and `Z`: only the fields are checked, and there are no extension words. -/
theorem decodeFields_of_plain {f : Fields} {i : Instr}
    (hf : op.format ≠ .imm ∧ op.format ≠ .j ∧ op.format ≠ .rrrFixed) (hop : f.op = op.code)
    (hu : unusedFieldsZero op.format f = true) (hr : registersLegal op.format f = true) (hb : build op f [] = some i) :
    decodeFields scheme f rest = .ok i := by
  obtain ⟨himm, hj, hfixed⟩ := hf
  exact decodeFields_eq_ok hop hu hr (opSpecific_eq_none f himm hj hfixed) (extWords_eq_nil f rest himm hj) hb

theorem decodeFields_fieldsRRR {mk : Reg → Reg → Reg → Instr} (hf : op.format = .rrr)
    (hb : ∀ f ext, build op f ext = buildRRR mk f) (rd rs1 rs2 : Reg) :
    decodeFields scheme (fieldsRRR op rd rs1 rs2) rest = .ok (mk rd rs1 rs2) :=
  decodeFields_of_plain rest (by simp [hf]) rfl (by simp [hf, unusedFieldsZero, fieldsRRR])
    (by simp [hf, registersLegal, fieldsRRR]) (by simp [hb, buildRRR, fieldsRRR])

/-- Formats `RRI12` and `MEM` have the same fields. -/
theorem decodeFields_fieldsRRI {mk : Reg → Reg → BitVec 12 → Instr} (hf : op.format = .rri12 ∨ op.format = .mem)
    (hb : ∀ f ext, build op f ext = buildRRI mk f) (rd rs1 : Reg) (imm : BitVec 12) :
    decodeFields scheme (fieldsRRI op rd rs1 imm) rest = .ok (mk rd rs1 imm) := by
  have hbuild : build op (fieldsRRI op rd rs1 imm) [] = some (mk rd rs1 imm) := by simp [hb, buildRRI, fieldsRRI]
  rcases hf with hf | hf
  · exact decodeFields_of_plain rest (by simp [hf]) rfl (by simp [hf, unusedFieldsZero, fieldsRRI])
      (by simp [hf, registersLegal, fieldsRRI]) hbuild
  · exact decodeFields_of_plain rest (by simp [hf]) rfl (by simp [hf, unusedFieldsZero, fieldsRRI])
      (by simp [hf, registersLegal, fieldsRRI]) hbuild

theorem decodeFields_fieldsStore {mk : Reg → Reg → BitVec 12 → Instr} (hf : op.format = .store)
    (hb : ∀ f ext, build op f ext = buildStore mk f) (rs1 rs2 : Reg) (imm : BitVec 12) :
    decodeFields scheme (fieldsStore op rs1 rs2 imm) rest = .ok (mk rs1 rs2 imm) :=
  decodeFields_of_plain rest (by simp [hf]) rfl (by simp [hf, unusedFieldsZero, fieldsStore])
    (by simp [hf, registersLegal, fieldsStore]) (by simp [hb, buildStore, fieldsStore])

theorem decodeFields_fieldsR {mk : Reg → Instr} (hf : op.format = .r) (hb : ∀ f ext, build op f ext = buildR mk f)
    (rd : Reg) : decodeFields scheme (fieldsR op rd) rest = .ok (mk rd) :=
  decodeFields_of_plain rest (by simp [hf]) rfl (by simp [hf, unusedFieldsZero, fieldsR])
    (by simp [hf, registersLegal, fieldsR]) (by simp [hb, buildR, fieldsR])

end

/-! ### Every instruction -/

/-- The fields of an instruction decode to it where they pass the checks for as many extension words as it has. -/
theorem decodeFields_fields_of_checks {i : Instr} (op : Opcode) (rest : List Word32) (hop : i.fields.op = op.code)
    (hu : unusedFieldsZero op.format i.fields = true) (hr : registersLegal op.format i.fields = true)
    (ho : opSpecific op i.fields = none) (hx : extCount .rs2Count op.format i.fields = i.ext.length)
    (hmax : i.ext.length ≤ op.maxExt) (himm : i.ext = [] ∨ i.fields.imm = 0#12)
    (hb : build op i.fields i.ext = some i) : decodeFields .rs2Count i.fields (i.ext ++ rest) = .ok i :=
  decodeFields_eq_ok hop hu hr ho (extWords_append rest hx hmax himm) hb

/-- The fields of an instruction decode to it, its extension words in front of whatever follows. -/
theorem decodeFields_fields (i : Instr) (rest : List Word32) :
    decodeFields .rs2Count i.fields (i.ext ++ rest) = .ok i := by
  cases i
  case ret => exact decodeFields_of_plain (op := .ret) rest (by decide) rfl rfl rfl rfl
  case drop => exact decodeFields_of_plain (op := .drop) rest (by decide) rfl rfl rfl rfl
  case ldir => exact decodeFields_fields_of_checks .ldir rest rfl rfl rfl rfl rfl le_rfl (.inl rfl) rfl
  case fill => exact decodeFields_fields_of_checks .fill rest rfl rfl rfl rfl rfl le_rfl (.inl rfl) rfl
  case call => exact decodeFields_fields_of_checks .call rest rfl rfl rfl rfl rfl (Nat.zero_le 2) (.inl rfl) rfl
  case callX32 => exact decodeFields_fields_of_checks .call rest rfl rfl rfl rfl rfl one_le_two (.inr rfl) rfl
  case callX64 imm =>
    exact decodeFields_fields_of_checks .call rest rfl rfl rfl rfl rfl le_rfl (.inr rfl) (by simp [build, Instr.ext])
  case jr cc imm =>
    exact decodeFields_fields_of_checks .jr rest rfl rfl rfl (by simp [opSpecific, Instr.fields, fieldsExt]) rfl
      (Nat.zero_le 1) (.inl rfl) (by simp [build, Instr.ext, Instr.fields, fieldsExt])
  case jrX32 cc imm =>
    exact decodeFields_fields_of_checks .jr rest rfl rfl rfl (by simp [opSpecific, Instr.fields, fieldsExt]) rfl
      le_rfl (.inr rfl) (by simp [build, Instr.ext, Instr.fields, fieldsExt])
  case cp rd imm =>
    exact decodeFields_fields_of_checks .cp rest rfl rfl (isRegister_index rd) rfl rfl (Nat.zero_le 1) (.inl rfl)
      (by simp [build, Instr.ext, Instr.fields, fieldsExt])
  case cpX32 rd imm =>
    exact decodeFields_fields_of_checks .cp rest rfl rfl (isRegister_index rd) rfl rfl le_rfl (.inr rfl)
      (by simp [build, Instr.ext, Instr.fields, fieldsExt])
  case ld rd imm =>
    exact decodeFields_fields_of_checks .ld rest rfl rfl (isRegister_index rd) rfl rfl (Nat.zero_le 2) (.inl rfl)
      (by simp [build, Instr.ext, Instr.fields, fieldsExt])
  case ldX32 rd imm =>
    exact decodeFields_fields_of_checks .ld rest rfl rfl (isRegister_index rd) rfl rfl one_le_two (.inr rfl)
      (by simp [build, Instr.ext, Instr.fields, fieldsExt])
  case ldX64 rd imm =>
    exact decodeFields_fields_of_checks .ld rest rfl rfl (isRegister_index rd) rfl rfl le_rfl (.inr rfl)
      (by simp [build, Instr.ext, Instr.fields, fieldsExt])
  case inc | dec | clz | ctz | popc | clz64 | ctz64 | popc64 | eq | ne | lts | les | gts | ges | ltu | leu | gtu | geu
      | eq64 | ne64 | lts64 | les64 | gts64 | ges64 | ltu64 | leu64 | gtu64 | geu64 =>
    exact decodeFields_fieldsR rest rfl (fun _ _ => rfl) _
  case add | sub | mul | divs | divu | rems | remu | and | or | xor | add64 | sub64 | mul64 | divs64 | divu64 | rems64
      | remu64 | and64 | or64 | xor64 =>
    exact decodeFields_fieldsRRR rest rfl (fun _ _ => rfl) _ _ _
  case sla | sra | srl | rol | ror | sla64 | sra64 | srl64 | rol64 | ror64 =>
    exact decodeFields_fieldsRRI rest (.inl rfl) (fun _ _ => rfl) _ _ _
  case ld8u | ld8s | ld16u | ld16s | ld32 | ld64 | ld8u64 | ld8s64 | ld16u64 | ld16s64 | ld32u64 | ld32s64 =>
    exact decodeFields_fieldsRRI rest (.inr rfl) (fun _ _ => rfl) _ _ _
  case st8 | st8_64 | st16 | st16_64 | st32 | st32_64 | st64 =>
    exact decodeFields_fieldsStore rest rfl (fun _ _ => rfl) _ _ _

/-- The encoding of an instruction decodes to it, whatever words follow. -/
theorem decode_encode (i : Instr) (rest : List Word32) : decode .rs2Count (encode i ++ rest) = .ok i :=
  (decode_encode_append .rs2Count i rest).trans (decodeFields_fields i rest)

/-- Settles O1: the bytes are those of the words of the encoding, and those decode. -/
theorem decodeReadsBackEveryEncoding : Obligations.DecodeReadsBackEveryEncoding := by
  intro i after
  rw [decodeBytes, encodeBytes, wordsOfBytes_append]
  exact decode_encode i (wordsOfBytes after)

/-- Words that are an instruction's encoding decode to it. -/
theorem decode_of_encode_eq {i : Instr} {ws : List Word32} (h : encode i = ws) : decode .rs2Count ws = .ok i := by
  simpa [h] using decode_encode i []

/-- Settles O6: each of the words is the encoding of the instruction beside it. -/
theorem specWordsDecode : Obligations.SpecWordsDecode :=
  ⟨decode_of_encode_eq rfl, decode_of_encode_eq rfl, decode_of_encode_eq rfl, decode_of_encode_eq rfl,
    decode_of_encode_eq rfl, decode_of_encode_eq rfl, decode_of_encode_eq rfl, decode_of_encode_eq rfl,
    decode_of_encode_eq rfl, decode_of_encode_eq rfl, decodeReadsBackEveryEncoding (.add .hl .de .bc) []⟩

end Sys2Proof
end

section
/-! What one step runs and where it leaves the program counter (R35, R42, R240 to R245). -/

namespace Sys2Proof.Machine

/-- A running machine runs the instruction its fetch answers, and nothing around it. -/
theorem step_of_fetch {s : State} {i : Instr} (hs : s.status = .running) (hi : s.fetch = .ok i) : step s = exec i s := by
  simp [step, hs, hi]

/-- Settles O9: in the image the fetch does not fault, and answers what the decoder reads there. -/
theorem stepRunsTheDecodedInstruction : Obligations.StepRunsTheDecodedInstruction := by
  intro s i hs hin hd
  exact step_of_fetch hs ((s.fetch_ok_iff i).mpr ⟨s.fetchFaults_eq_false_iff.mpr hin, hd⟩)

/-- A `CALL` calls its target (R244). -/
theorem exec_of_callTarget {i : Instr} {v : Word} (h : callTarget i = some v) (s : State) :
    exec i s = callAbsolute v i.len s := by
  cases i
  case call | callX32 | callX64 =>
    cases h
    rfl
  all_goals cases h

theorem callTarget_of_isCall {i : Instr} (h : isCall i = true) : ∃ v, callTarget i = some v := by
  cases i
  case call | callX32 | callX64 => exact ⟨_, rfl⟩
  all_goals cases h

/-- Where a `CALL` leaves the program counter: at its target, or where it was (R244). -/
theorem pc_of_callTarget {i : Instr} {v : Word} {s t : State} (hv : callTarget i = some v) (h : exec i s = .next t) :
    t.pc = v ∨ t.pc = s.pc := by
  rw [exec_of_callTarget hv] at h
  rcases callAbsolute_cases h with ⟨-, rfl⟩ | ⟨-, rfl⟩
  · exact .inr rfl
  · exact .inl rfl

/-- No instruction but `CALL` takes the program counter off alignment: `JR` displaces it by whole words, `RET` pops an aligned
address, a trap leaves it, and the others advance by whole words (R35, R240, R245). -/
theorem Effect.pc_aligned {i : Instr} {s t : State} (h : Effect i s t) (hcall : isCall i = false)
    (hpc : s.pc.toNat % 4 = 0) (hs : s.stackAligned = true) : t.pc.toNat % 4 = 0 := by
  cases h
  case calls hi _ _ => simp [hi] at hcall
  case jumps => exact s.jrTarget_aligned _ _ hpc
  case returns _ ret rest hrs => exact s.stackAligned_iff.mp hs ret (by simp [hrs])
  case writes | compares | drops | stores | fallsThrough => exact s.nextPc_aligned _ hpc
  case fills | copies =>
    rw [State.macroEnd_pc]
    exact s.nextPc_aligned _ hpc
  case macroOutOfBounds => rwa [State.macroTrap_pc]
  case halts | dividesByZero | overflows | outOfBounds | callStackFull => exact hpc

/-- Settles O23: a trap of the fetch leaves the program counter, a `CALL` takes it to its target, and no other instruction
takes it off alignment. -/
theorem alignmentIsLostOnlyByCall : Obligations.AlignmentIsLostOnlyByCall := by
  intro s t hpc hs h htarget
  obtain ⟨-, ⟨c, -, rfl⟩ | ⟨i, hi, he⟩⟩ := step_cases h
  · exact ⟨hpc, hs⟩
  · refine ⟨?_, (exec_effect he).stackAligned hpc hs⟩
    cases hcall : isCall i with
    | false => exact (exec_effect he).pc_aligned hcall hpc hs
    | true =>
      obtain ⟨v, hv⟩ := callTarget_of_isCall hcall
      rcases pc_of_callTarget hv he with hp | hp
      · exact hp ▸ htarget i v hi hv
      · exact hp ▸ hpc

end Sys2Proof.Machine
end

section
/-! `MemRead` and `MemWrite` byte by byte, and a narrow read inside a wide write (R31, R33, R36, R37). -/

namespace Sys2Proof.Machine

/-- Bits of bits of a value are bits of the value. -/
theorem extractLsb'_extractLsb' {w : Nat} (v : BitVec w) {i j len n : Nat} (h : j + len ≤ n) :
    (v.extractLsb' i n).extractLsb' j len = v.extractLsb' (i + j) len := by
  apply BitVec.eq_of_getLsbD_eq
  intro b hb
  have hin : j + b < n := by omega
  simp [hb, hin, Nat.add_assoc]

/-- A value is known by its bytes (R31). -/
theorem eq_of_bytes_eq {n : Nat} {u v : BitVec (8 * n)}
    (h : ∀ k < n, u.extractLsb' (8 * k) 8 = v.extractLsb' (8 * k) 8) : u = v := by
  apply BitVec.eq_of_getLsbD_eq
  intro b hb
  have hbyte := congrArg (·.getLsbD (b % 8)) (h (b / 8) (by omega))
  simpa [BitVec.getLsbD_extractLsb', Nat.mod_lt, Nat.div_add_mod] using hbyte

theorem State.memRead_of_inBounds {s : State} {addr : Int} {n : Nat} (h : 0 ≤ addr ∧ addr + n ≤ s.cfg.memSize) :
    ∃ v, s.memRead addr n = .ok v :=
  ⟨_, (s.memRead_ok_iff addr n _).mpr ⟨h, rfl⟩⟩

/-- A byte of memory after `MemWrite`: a byte of the value inside the range, as before outside (R31, R37). -/
theorem State.read_of_memWrite {s t : State} {addr : Int} {n : Nat} {v : BitVec (8 * n)}
    (h : s.memWrite addr n v = .ok t) (y : Nat) :
    Memory.read t.mem y = if addr.toNat ≤ y ∧ y < addr.toNat + n then v.extractLsb' (8 * (y - addr.toNat)) 8
      else Memory.read s.mem y := by
  obtain ⟨-, rfl⟩ := (s.memWrite_ok_iff addr n v t).mp h
  exact Memory.read_writeBytes_leBytes s.mem addr.toNat n y v

theorem State.read_add_of_memWrite {s t : State} {addr : Int} {n : Nat} {v : BitVec (8 * n)}
    (h : s.memWrite addr n v = .ok t) {k : Nat} (hk : k < n) :
    Memory.read t.mem (addr.toNat + k) = v.extractLsb' (8 * k) 8 := by
  rw [State.read_of_memWrite h, if_pos (by omega), Nat.add_sub_cancel_left]

/-- Settles O39: both primitives answer exactly in bounds; what `MemRead` answers and what `MemWrite` leaves are known byte by
byte. -/
theorem memoryPrimitives : Obligations.MemoryPrimitives := by
  refine ⟨fun s addr n hout => ?_, fun s addr n h0 hn => ⟨?_, fun v => ?_⟩⟩
  · have hb : ¬ (0 ≤ addr ∧ addr + n ≤ s.cfg.memSize) := by omega
    exact ⟨(s.memRead_error_iff addr n _).mpr ⟨hb, rfl⟩, fun v => (s.memWrite_error_iff addr n v _).mpr ⟨hb, rfl⟩⟩
  · obtain ⟨v, hv⟩ := State.memRead_of_inBounds ⟨h0, hn⟩
    exact ⟨v, hv, fun k hk => State.memRead_byte hv hk⟩
  · have hw := (s.memWrite_ok_iff addr n v _).mpr ⟨⟨h0, hn⟩, rfl⟩
    exact ⟨_, hw, rfl, fun k hk => State.read_add_of_memWrite hw hk,
      fun a ha => by rw [State.read_of_memWrite hw, if_neg ha]⟩

/-- Reading some of the bytes a `MemWrite` wrote gives those bits of the value (R33). -/
theorem State.memRead_of_memWrite {s t : State} {addr : Int} {m : Nat} {v : BitVec (8 * m)}
    (h : s.memWrite addr m v = .ok t) {k n : Nat} (hkn : k + n ≤ m) :
    t.memRead (addr + k) n = .ok (v.extractLsb' (8 * k) (8 * n)) := by
  obtain ⟨⟨h0, hm⟩, ht⟩ := (s.memWrite_ok_iff addr m v t).mp h
  have hcfg : t.cfg = s.cfg := by rw [ht, State.setMem_cfg]
  obtain ⟨u, hu⟩ := State.memRead_of_inBounds (s := t) (addr := addr + k) (n := n) (by rw [hcfg]; omega)
  have hbytes : ∀ j < n, u.extractLsb' (8 * j) 8 = (v.extractLsb' (8 * k) (8 * n)).extractLsb' (8 * j) 8 := by
    intro j hj
    have hadd : (addr + k).toNat + j = addr.toNat + (k + j) := by omega
    rw [State.memRead_byte hu hj, hadd, State.read_add_of_memWrite h (by omega),
      extractLsb'_extractLsb' v (by omega), Nat.mul_add]
  rw [hu, eq_of_bytes_eq hbytes]

/-- Settles O40: the byte loads at each offset and the two halves are reads inside the eight bytes written. -/
theorem narrowLoadSeesTheWideStore : Obligations.NarrowLoadSeesTheWideStore := by
  intro s t a v h
  refine ⟨fun k hk => State.memRead_of_memWrite h (n := 1) (by omega), ?_, ?_⟩
  · simpa using State.memRead_of_memWrite h (k := 0) (n := 4) (by decide)
  · exact State.memRead_of_memWrite h (k := 4) (n := 4) (by decide)

end Sys2Proof.Machine
end

section
/-! The decoder accepts the encodings and nothing else (R64, R75): from a base word and extension words that pass its checks it
builds the instruction that has them, format by format. So the linear sweep of R67 accepts the concatenations of encodings. -/

namespace Sys2Proof

/-! ### The checks of R64 -/

/-- A base word of an opcode passes every check of R64 with these extension words. -/
structure ChecksPass (op : Opcode) (f : Fields) (ext : List Word32) : Prop where
  /-- step 1 -/
  opcode : f.op = op.code
  /-- step 3 -/
  unused : unusedFieldsZero op.format f = true
  /-- step 4 -/
  registers : registersLegal op.format f = true
  /-- step 5 -/
  specific : opSpecific op f = none
  /-- step 6: the base word tells as many extension words as these, the opcode allows them, and a header's `IMM12` is zero -/
  count : extCount .rs2Count op.format f = ext.length
  allowed : ext.length ≤ op.maxExt
  header : ext = [] ∨ f.imm = 0#12

theorem Opcode.maxExt_le (op : Opcode) : op.maxExt ≤ 2 := by cases op <;> decide

/-- In formats `IMM` and `J` the `RS2` field is the extension-word count (R58). -/
theorem extCount_eq_rs2 {fmt : Format} {f : Fields} (h : fmt = .imm ∨ fmt = .j) :
    extCount .rs2Count fmt f = f.rs2.toNat := by
  rcases h with rfl | rfl
  · rfl
  · rfl

/-- An accepting decoder has passed every check, with the words next after the base word. -/
theorem checksPass_of_decodeFields {f : Fields} {rest : List Word32} {i : Instr}
    (h : decodeFields .rs2Count f rest = .ok i) :
    ∃ op ext after, ChecksPass op f ext ∧ rest = ext ++ after ∧ build op f ext = some i := by
  obtain ⟨op, ext, hop, hu, hr, ho, he, hb⟩ := decodeFields_ok h
  obtain ⟨hmax, himm, hrest, hext⟩ := extWords_ok he
  have hlen : extCount .rs2Count op.format f = ext.length := by rw [hext, List.length_take, Nat.min_eq_left hrest]
  refine ⟨op, ext, rest.drop (extCount .rs2Count op.format f), ⟨(Opcode.code_of_ofCode hop).symm, hu, hr, ho, hlen,
    hlen ▸ hmax, himm.imp_left fun h0 => ?_⟩, ?_, hb⟩
  · exact List.eq_nil_of_length_eq_zero (hlen ▸ h0)
  · rw [hext, List.take_append_drop]

theorem exists_index_of_isRegister {v : BitVec 4} (h : isRegister v = true) : ∃ r : Reg, v = r.index := by
  obtain ⟨r, hr⟩ := Option.isSome_iff_exists.mp h
  exact ⟨r, (Reg.index_of_ofIndex hr).symm⟩

theorem exists_code_of_ofCode_isSome {v : BitVec 4} (h : (Cond.ofCode v).isSome = true) : ∃ c : Cond, v = c.code := by
  obtain ⟨c, hc⟩ := Option.isSome_iff_exists.mp h
  exact ⟨c, (Cond.code_of_ofCode hc).symm⟩

/-- The decoder builds, from the fields and the extension words, an instruction that has them. -/
def BuildsTheirInstr (op : Opcode) (f : Fields) (ext : List Word32) : Prop :=
  ∃ i, build op f ext = some i ∧ i.fields = f ∧ i.ext = ext

namespace ChecksPass

/-! ### The formats without extension words -/

section
variable {op : Opcode} {f : Fields} {ext : List Word32} (h : ChecksPass op f ext)
include h

theorem ext_eq_nil (hmax : op.maxExt = 0) : ext = [] := List.eq_nil_of_length_eq_zero (Nat.le_zero.mp (hmax ▸ h.allowed))

theorem builds_of_rrr (hf : op.format = .rrr) (hmax : op.maxExt = 0) {mk : Reg → Reg → Reg → Instr}
    (hb : ∀ f ext, build op f ext = buildRRR mk f)
    (hmk : ∀ rd rs1 rs2, (mk rd rs1 rs2).fields = fieldsRRR op rd rs1 rs2 ∧ (mk rd rs1 rs2).ext = []) :
    BuildsTheirInstr op f ext := by
  obtain rfl := h.ext_eq_nil hmax
  obtain ⟨hop, himm, hregs, -⟩ := h
  obtain ⟨o, v, v1, v2, imm⟩ := f
  simp only [hf, unusedFieldsZero, registersLegal, beq_iff_eq, Bool.and_eq_true] at hop himm hregs
  obtain ⟨⟨hrd, hrs1⟩, hrs2⟩ := hregs
  obtain ⟨rd, rfl⟩ := exists_index_of_isRegister hrd
  obtain ⟨rs1, rfl⟩ := exists_index_of_isRegister hrs1
  obtain ⟨rs2, rfl⟩ := exists_index_of_isRegister hrs2
  subst hop himm
  exact ⟨mk rd rs1 rs2, by simp [hb, buildRRR], hmk rd rs1 rs2⟩

/-- Formats `RRI12` and `MEM` have the same fields. -/
theorem builds_of_rri (hf : op.format = .rri12 ∨ op.format = .mem) (hmax : op.maxExt = 0)
    {mk : Reg → Reg → BitVec 12 → Instr} (hb : ∀ f ext, build op f ext = buildRRI mk f)
    (hmk : ∀ rd rs1 imm, (mk rd rs1 imm).fields = fieldsRRI op rd rs1 imm ∧ (mk rd rs1 imm).ext = []) :
    BuildsTheirInstr op f ext := by
  obtain rfl := h.ext_eq_nil hmax
  obtain ⟨hop, hrs2, hregs, -⟩ := h
  obtain ⟨o, v, v1, v2, imm⟩ := f
  have hfields : v2 = 0#4 ∧ isRegister v = true ∧ isRegister v1 = true := by
    rcases hf with hf | hf
    · simpa [hf, unusedFieldsZero, registersLegal] using And.intro hrs2 hregs
    · simpa [hf, unusedFieldsZero, registersLegal] using And.intro hrs2 hregs
  obtain ⟨rfl, hrd, hrs1⟩ := hfields
  obtain ⟨rd, rfl⟩ := exists_index_of_isRegister hrd
  obtain ⟨rs1, rfl⟩ := exists_index_of_isRegister hrs1
  obtain rfl : o = op.code := hop
  exact ⟨mk rd rs1 imm, by simp [hb, buildRRI], hmk rd rs1 imm⟩

theorem builds_of_store (hf : op.format = .store) (hmax : op.maxExt = 0) {mk : Reg → Reg → BitVec 12 → Instr}
    (hb : ∀ f ext, build op f ext = buildStore mk f)
    (hmk : ∀ rs1 rs2 imm, (mk rs1 rs2 imm).fields = fieldsStore op rs1 rs2 imm ∧ (mk rs1 rs2 imm).ext = []) :
    BuildsTheirInstr op f ext := by
  obtain rfl := h.ext_eq_nil hmax
  obtain ⟨hop, hrd, hregs, -⟩ := h
  obtain ⟨o, v, v1, v2, imm⟩ := f
  simp only [hf, unusedFieldsZero, registersLegal, beq_iff_eq, Bool.and_eq_true] at hop hrd hregs
  obtain ⟨hrs1, hrs2⟩ := hregs
  obtain ⟨rs1, rfl⟩ := exists_index_of_isRegister hrs1
  obtain ⟨rs2, rfl⟩ := exists_index_of_isRegister hrs2
  subst hop hrd
  exact ⟨mk rs1 rs2 imm, by simp [hb, buildStore], hmk rs1 rs2 imm⟩

theorem builds_of_r (hf : op.format = .r) (hmax : op.maxExt = 0) {mk : Reg → Instr}
    (hb : ∀ f ext, build op f ext = buildR mk f) (hmk : ∀ rd, (mk rd).fields = fieldsR op rd ∧ (mk rd).ext = []) :
    BuildsTheirInstr op f ext := by
  obtain rfl := h.ext_eq_nil hmax
  obtain ⟨hop, hzero, hrd, -⟩ := h
  obtain ⟨o, v, v1, v2, imm⟩ := f
  simp only [hf, unusedFieldsZero, registersLegal, beq_iff_eq, Bool.and_eq_true] at hop hzero hrd
  obtain ⟨⟨rfl, rfl⟩, rfl⟩ := hzero
  obtain ⟨rd, rfl⟩ := exists_index_of_isRegister hrd
  subst hop
  exact ⟨mk rd, by simp [hb, buildR], hmk rd⟩

/-- `RET` and `DROP`, and `LDIR` and `FILL`: every field has one value. -/
theorem builds_of_fixed {i : Instr} (hmax : op.maxExt = 0) (hb : build op f ext = some i) (hext : i.ext = [])
    (hrd : f.rd = i.fields.rd) (hrs1 : f.rs1 = i.fields.rs1) (hrs2 : f.rs2 = i.fields.rs2) (himm : f.imm = i.fields.imm)
    (hop : op.code = i.fields.op) : BuildsTheirInstr op f ext := by
  refine ⟨i, hb, ?_, hext.trans (h.ext_eq_nil hmax).symm⟩
  rw [← h.opcode] at hop
  obtain ⟨o, v, v1, v2, imm⟩ := f
  rw [Fields.mk.injEq]
  exact ⟨hop.symm, hrd.symm, hrs1.symm, hrs2.symm, himm.symm⟩

end

/-! ### The opcodes with extension words -/

/-- The three lengths in formats `IMM` and `J`: the `RS2` field is the number of extension words, and where there are any
`IMM12` is zero (R58). -/
theorem ext_cases {op : Opcode} {f : Fields} {ext : List Word32} (h : ChecksPass op f ext)
    (hf : op.format = .imm ∨ op.format = .j) :
    (ext = [] ∧ f = fieldsExt op f.rd f.rs1 0#4 f.imm) ∨ (∃ w1, ext = [w1] ∧ f = fieldsExt op f.rd f.rs1 1#4 0#12) ∨
      ∃ w1 w2, ext = [w1, w2] ∧ op.maxExt = 2 ∧ f = fieldsExt op f.rd f.rs1 2#4 0#12 := by
  have hrs2 : f.rs2.toNat = ext.length := by rw [← h.count, extCount_eq_rs2 hf]
  have hfields : f = fieldsExt op f.rd f.rs1 (BitVec.ofNat 4 ext.length) f.imm := by
    rw [← hrs2, BitVec.ofNat_toNat, BitVec.setWidth_eq, fieldsExt, ← h.opcode]
  have hmax : op.maxExt ≤ 2 := op.maxExt_le
  obtain ⟨-, -, -, -, -, hlen, himm⟩ := h
  match ext with
  | [] => exact .inl ⟨rfl, hfields⟩
  | [w1] =>
    rw [show f.imm = 0#12 by simpa using himm] at hfields
    exact .inr (.inl ⟨w1, rfl, hfields⟩)
  | [w1, w2] =>
    rw [show f.imm = 0#12 by simpa using himm] at hfields
    exact .inr (.inr ⟨w1, w2, rfl, le_antisymm hmax hlen, hfields⟩)
  | w1 :: w2 :: w3 :: ws =>
    simp only [List.length_cons] at hlen
    omega

section
variable {f : Fields} {ext : List Word32}

theorem builds_call (h : ChecksPass .call f ext) : BuildsTheirInstr .call f ext := by
  have hrd : f.rd = 0#4 := by simpa [opSpecific] using h.specific
  have hrs1 : f.rs1 = 0#4 := by simpa [Opcode.format, unusedFieldsZero] using h.unused
  have hcases := h.ext_cases (.inl rfl)
  rw [hrd, hrs1] at hcases
  obtain ⟨rfl, hf⟩ | ⟨w1, rfl, hf⟩ | ⟨w1, w2, rfl, -, hf⟩ := hcases
  · exact ⟨.call f.imm, rfl, hf.symm, rfl⟩
  · exact ⟨.callX32 w1, rfl, hf.symm, rfl⟩
  · exact ⟨.callX64 (imm64 w1 w2), rfl, hf.symm, by simp [Instr.ext, imm64_low, imm64_high]⟩

theorem builds_ld (h : ChecksPass .ld f ext) : BuildsTheirInstr .ld f ext := by
  obtain ⟨rd, hrd⟩ := exists_index_of_isRegister h.registers
  have hrs1 : f.rs1 = 0#4 := by simpa [Opcode.format, unusedFieldsZero] using h.unused
  have hcases := h.ext_cases (.inl rfl)
  rw [hrd, hrs1] at hcases
  obtain ⟨rfl, hf⟩ | ⟨w1, rfl, hf⟩ | ⟨w1, w2, rfl, -, hf⟩ := hcases
  · exact ⟨.ld rd f.imm, by simp [build, hrd], hf.symm, rfl⟩
  · exact ⟨.ldX32 rd w1, by simp [build, hrd], hf.symm, rfl⟩
  · exact ⟨.ldX64 rd (imm64 w1 w2), by simp [build, hrd], hf.symm, by simp [Instr.ext, imm64_low, imm64_high]⟩

theorem builds_cp (h : ChecksPass .cp f ext) : BuildsTheirInstr .cp f ext := by
  obtain ⟨rd, hrd⟩ := exists_index_of_isRegister h.registers
  have hrs1 : f.rs1 = 0#4 := by simpa [Opcode.format, unusedFieldsZero] using h.unused
  have hcases := h.ext_cases (.inl rfl)
  rw [hrd, hrs1] at hcases
  obtain ⟨rfl, hf⟩ | ⟨w1, rfl, hf⟩ | ⟨_, _, -, hmax, -⟩ := hcases
  · exact ⟨.cp rd f.imm, by simp [build, hrd], hf.symm, rfl⟩
  · exact ⟨.cpX32 rd w1, by simp [build, hrd], hf.symm, rfl⟩
  · cases hmax

theorem builds_jr (h : ChecksPass .jr f ext) : BuildsTheirInstr .jr f ext := by
  have hrd : f.rd = 0#4 := by simpa [Opcode.format, unusedFieldsZero] using h.unused
  have hcond : (Cond.ofCode f.rs1).isSome = true := by
    simpa [opSpecific, Option.isSome_iff_ne_none] using h.specific
  obtain ⟨cc, hcc⟩ := exists_code_of_ofCode_isSome hcond
  have hcases := h.ext_cases (.inr rfl)
  rw [hrd, hcc] at hcases
  obtain ⟨rfl, hf⟩ | ⟨w1, rfl, hf⟩ | ⟨_, _, -, hmax, -⟩ := hcases
  · exact ⟨.jr cc f.imm, by simp [build, hcc], hf.symm, rfl⟩
  · exact ⟨.jrX32 cc w1, by simp [build, hcc], hf.symm, rfl⟩
  · cases hmax

end

/-! ### Every opcode -/

/-- Step 7 of R64: what passes the checks is an instruction. -/
theorem builds {op : Opcode} {f : Fields} {ext : List Word32} (h : ChecksPass op f ext) : BuildsTheirInstr op f ext := by
  cases op
  case call => exact h.builds_call
  case ld => exact h.builds_ld
  case cp => exact h.builds_cp
  case jr => exact h.builds_jr
  case ret | drop =>
    obtain ⟨⟨⟨hrd, hrs1⟩, hrs2⟩, himm⟩ : ((f.rd = 0#4 ∧ f.rs1 = 0#4) ∧ f.rs2 = 0#4) ∧ f.imm = 0#12 := by
      simpa [Opcode.format, unusedFieldsZero] using h.unused
    exact h.builds_of_fixed rfl rfl rfl hrd hrs1 hrs2 himm rfl
  case ldir | fill =>
    have hregs := h.specific
    simp only [opSpecific, Bool.and_eq_true, beq_iff_eq, ite_eq_left_iff, reduceCtorEq, imp_false, not_not] at hregs
    obtain ⟨⟨hrd, hrs1⟩, hrs2⟩ := hregs
    exact h.builds_of_fixed rfl rfl rfl hrd hrs1 hrs2 (beq_iff_eq.mp h.unused) rfl
  case inc | dec | clz | ctz | popc | clz64 | ctz64 | popc64 | eq | ne | lts | les | gts | ges | ltu | leu | gtu | geu
      | eq64 | ne64 | lts64 | les64 | gts64 | ges64 | ltu64 | leu64 | gtu64 | geu64 =>
    exact h.builds_of_r rfl rfl (fun _ _ => rfl) (fun _ => ⟨rfl, rfl⟩)
  case add | sub | mul | divs | divu | rems | remu | and | or | xor | add64 | sub64 | mul64 | divs64 | divu64 | rems64
      | remu64 | and64 | or64 | xor64 =>
    exact h.builds_of_rrr rfl rfl (fun _ _ => rfl) (fun _ _ _ => ⟨rfl, rfl⟩)
  case sla | sra | srl | rol | ror | sla64 | sra64 | srl64 | rol64 | ror64 =>
    exact h.builds_of_rri (.inl rfl) rfl (fun _ _ => rfl) (fun _ _ _ => ⟨rfl, rfl⟩)
  case ld8u | ld8s | ld16u | ld16s | ld32 | ld64 | ld8u64 | ld8s64 | ld16u64 | ld16s64 | ld32u64 | ld32s64 =>
    exact h.builds_of_rri (.inr rfl) rfl (fun _ _ => rfl) (fun _ _ _ => ⟨rfl, rfl⟩)
  case st8 | st8_64 | st16 | st16_64 | st32 | st32_64 | st64 =>
    exact h.builds_of_store rfl rfl (fun _ _ => rfl) (fun _ _ _ => ⟨rfl, rfl⟩)

end ChecksPass

/-! ### The words the decoder accepts -/

/-- The decoder answers an instruction on its fields with its extension words next, and nowhere else. -/
theorem decodeFields_ok_iff {f : Fields} {rest : List Word32} {i : Instr} :
    decodeFields .rs2Count f rest = .ok i ↔ f = i.fields ∧ ∃ after, rest = i.ext ++ after := by
  constructor
  · intro h
    obtain ⟨op, ext, after, hchecks, rfl, hb⟩ := checksPass_of_decodeFields h
    obtain ⟨j, hj, rfl, rfl⟩ := hchecks.builds
    obtain rfl : j = i := Option.some.inj (hj.symm.trans hb)
    exact ⟨rfl, after, rfl⟩
  · rintro ⟨rfl, after, rfl⟩
    exact decodeFields_fields i after

/-- The decoder answers an instruction on the words that begin with its encoding, and nowhere else. -/
theorem decode_ok_iff {ws : List Word32} {i : Instr} : decode .rs2Count ws = .ok i ↔ ∃ rest, ws = encode i ++ rest := by
  cases ws with
  | nil => simp [decode, encode]
  | cons w ws =>
    have hword : Fields.ofWord w = i.fields ↔ w = i.fields.toWord :=
      ⟨fun h => by rw [← h, Fields.toWord_ofWord], fun h => by rw [h, Fields.ofWord_toWord]⟩
    rw [decode_cons, decodeFields_ok_iff, hword]
    simp [encode]

/-- Settles O2: what passes the decoder's checks has the fields and extension words of the instruction built. -/
theorem acceptedWordsAreTheEncoding : Obligations.AcceptedWordsAreTheEncoding :=
  fun _ _ h => decode_ok_iff.mp h

/-! ### The linear sweep -/

theorem sweep_encode_append (fuel : Nat) (i : Instr) (rest : List Word32) :
    sweep .rs2Count (fuel + 1) (encode i ++ rest) = sweep .rs2Count fuel rest := by
  have hd : (encode i ++ rest).drop i.len = rest := by rw [← encode_length, List.drop_left]
  have hdecode := decode_encode i rest
  rw [encode, List.cons_append] at hd hdecode ⊢
  rw [sweep, hdecode]
  simp only [hd]

/-- The sweep accepts encodings one after another, given as much fuel as there are instructions. -/
theorem sweep_flatMap_encode (is : List Instr) {fuel : Nat} (hfuel : is.length ≤ fuel) :
    sweep .rs2Count fuel (is.flatMap encode) = true := by
  induction is generalizing fuel with
  | nil => rw [List.flatMap_nil, sweep]
  | cons i is ih =>
    obtain ⟨fuel, rfl⟩ : ∃ n, fuel = n + 1 := ⟨fuel - 1, by rw [List.length_cons] at hfuel; omega⟩
    rw [List.flatMap_cons, sweep_encode_append]
    exact ih (Nat.le_of_succ_le_succ hfuel)

/-- What the sweep accepts is encodings one after another. -/
theorem exists_flatMap_of_sweep {fuel : Nat} {ws : List Word32} (h : sweep .rs2Count fuel ws = true) :
    ∃ is : List Instr, ws = is.flatMap encode := by
  induction fuel generalizing ws with
  | zero =>
    cases ws with
    | nil => exact ⟨[], rfl⟩
    | cons w ws => simp [sweep] at h
  | succ fuel ih =>
    cases ws with
    | nil => exact ⟨[], rfl⟩
    | cons w ws =>
      cases hd : decode .rs2Count (w :: ws) with
      | error r => simp [sweep, hd] at h
      | ok i =>
        obtain ⟨rest, hrest⟩ := decode_ok_iff.mp hd
        rw [hrest, sweep_encode_append] at h
        obtain ⟨is, rfl⟩ := ih h
        exact ⟨i :: is, hrest⟩

/-- An image of encodings has at least as many words as instructions. -/
theorem length_le_length_flatMap_encode (is : List Instr) : is.length ≤ (is.flatMap encode).length := by
  induction is with
  | nil => exact le_rfl
  | cons i is ih =>
    have hpos := i.len_pos
    rw [List.flatMap_cons, List.length_append, encode_length, List.length_cons]
    omega

/-- Settles O8: an accepted decode takes one encoding off the image; the fuel, one for each word, is enough. -/
theorem wellFormedImageIsEncodings : Obligations.WellFormedImageIsEncodings := by
  intro prog
  refine ⟨exists_flatMap_of_sweep, ?_⟩
  rintro ⟨is, rfl⟩
  exact sweep_flatMap_encode is (length_le_length_flatMap_encode is)

end Sys2Proof
end

section
/-! The decoder against the table of encodings (R53, R57, R58, R65, R70, R76), and what an accepted or a rejected base word says of
its fields (R65, R72). -/

namespace Sys2Proof

/-! ### The row of an opcode -/

/-- The row of the table of encodings for an opcode with `xw` extension words, by its format. -/
def Opcode.row (op : Opcode) (xw : Nat) : EncodingRow :=
  match op.format with
  | .rrr => ⟨op.code, .register, .register, .register, false, xw + 1⟩
  | .rri12 | .mem => ⟨op.code, .register, .register, .exactly 0#4, true, xw + 1⟩
  | .r => ⟨op.code, .register, .exactly 0#4, .exactly 0#4, false, xw + 1⟩
  | .store => ⟨op.code, .exactly 0#4, .register, .register, true, xw + 1⟩
  | .j => ⟨op.code, .exactly 0#4, .condition, .exactly (BitVec.ofNat 4 xw), xw == 0, xw + 1⟩
  | .imm =>
    ⟨op.code, if op = .call then .exactly 0#4 else .register, .exactly 0#4, .exactly (BitVec.ofNat 4 xw), xw == 0, xw + 1⟩
  | .z => ⟨op.code, .exactly 0#4, .exactly 0#4, .exactly 0#4, false, xw + 1⟩
  | .rrrFixed =>
    ⟨op.code, if op = .ldir then .exactly 1#4 else .exactly 0#4, if op = .ldir then .exactly 0#4 else .exactly 2#4,
      .exactly 3#4, false, xw + 1⟩

/-- Every row of the table is that of an opcode and of as many extension words as it allows. -/
theorem row_of_mem_encodingTable {row : EncodingRow} (h : row ∈ encodingTable) :
    ∃ (op : Opcode) (xw : Nat), xw ≤ op.maxExt ∧ row = op.row xw := by
  have key : ∀ row ∈ encodingTable, (Opcode.ofCode row.op).any (fun op =>
      decide (row.words - 1 ≤ op.maxExt ∧ row = op.row (row.words - 1))) = true := by decide
  obtain ⟨op, -, hop⟩ := (Option.any_eq_true _ _).mp (key row h)
  exact ⟨op, row.words - 1, of_decide_eq_true hop⟩

theorem Opcode.row_op (op : Opcode) (xw : Nat) : (op.row xw).op = op.code := by
  unfold Opcode.row
  cases op.format <;> rfl

theorem Opcode.row_words (op : Opcode) (xw : Nat) : (op.row xw).words = xw + 1 := by
  unfold Opcode.row
  cases op.format <;> rfl

/-- Only formats `IMM` and `J` have extension words (R58). -/
theorem Opcode.maxExt_eq_zero {op : Opcode} (himm : op.format ≠ .imm) (hj : op.format ≠ .j) : op.maxExt = 0 := by
  cases op
  case call | cp | ld => exact absurd rfl himm
  case jr => exact absurd rfl hj
  all_goals rfl

theorem Opcode.extCount_eq_zero {op : Opcode} {scheme : ExtScheme} {f : Fields} (himm : op.format ≠ .imm)
    (hj : op.format ≠ .j) : extCount scheme op.format f = 0 := by
  cases hf : op.format
  case imm => exact absurd hf himm
  case j => exact absurd hf hj
  all_goals rfl

@[simp] theorem FieldRule.accepts_exactly (v x : BitVec 4) : (FieldRule.exactly v).accepts x = (x == v) := rfl

@[simp] theorem FieldRule.accepts_register (v : BitVec 4) : FieldRule.register.accepts v = isRegister v :=
  (isRegister_eq v).symm

@[simp] theorem FieldRule.accepts_condition (v : BitVec 4) : FieldRule.condition.accepts v = (Cond.ofCode v).isSome :=
  (Cond.ofCode_isSome v).symm

theorem EncodingRow.accepts_iff {r : EncodingRow} {f : Fields} : r.accepts f = true ↔ f.op = r.op ∧
    r.rd.accepts f.rd = true ∧ r.rs1.accepts f.rs1 = true ∧ r.rs2.accepts f.rs2 = true ∧
      (r.immFree = true ∨ f.imm = 0#12) := by
  simp [EncodingRow.accepts, and_assoc]

/-! ### A row's rules are the decoder's checks -/

section
variable {op : Opcode} {f : Fields} {xw : Nat} (h : (op.row xw).accepts f = true)
include h

/-- Steps 3 and 4 of R64, format by format. -/
theorem fieldChecks_of_row : unusedFieldsZero op.format f = true ∧ registersLegal op.format f = true := by
  obtain ⟨-, hrd, hrs1, hrs2, himm⟩ := EncodingRow.accepts_iff.mp h
  cases hf : op.format
  all_goals simp only [Opcode.row, hf, FieldRule.accepts_exactly, FieldRule.accepts_register, beq_iff_eq, true_or,
    Bool.false_eq_true, false_or] at hrd hrs1 hrs2 himm
  case rrr => simp [unusedFieldsZero, registersLegal, hrd, hrs1, hrs2, himm]
  case rri12 | mem => simp [unusedFieldsZero, registersLegal, hrd, hrs1, hrs2]
  case r => simp [unusedFieldsZero, registersLegal, hrd, hrs1, hrs2, himm]
  case store => simp [unusedFieldsZero, registersLegal, hrd, hrs1, hrs2]
  case j => simp [unusedFieldsZero, registersLegal, hrd]
  case imm =>
    refine ⟨by simp [unusedFieldsZero, hrs1], ?_⟩
    split at hrd
    · rw [FieldRule.accepts_exactly, beq_iff_eq] at hrd
      rw [registersLegal, hrd]
      rfl
    · simpa [registersLegal] using hrd
  case z => simp [unusedFieldsZero, registersLegal, hrd, hrs1, hrs2, himm]
  case rrrFixed =>
    refine ⟨by simp [unusedFieldsZero, himm], ?_⟩
    by_cases hop : op = .ldir
    · simp only [hop, if_true, FieldRule.accepts_exactly, beq_iff_eq] at hrd hrs1
      rw [registersLegal, hrd, hrs1, hrs2]
      rfl
    · simp only [hop, if_false, FieldRule.accepts_exactly, beq_iff_eq] at hrd hrs1
      rw [registersLegal, hrd, hrs1, hrs2]
      rfl

/-- Step 5 of R64: the four opcodes with checks of their own. -/
theorem opSpecific_of_row : opSpecific op f = none := by
  obtain ⟨-, hrd, hrs1, hrs2, -⟩ := EncodingRow.accepts_iff.mp h
  cases op
  case call => exact if_pos hrd
  case jr => exact if_pos ((FieldRule.accepts_condition _).symm.trans hrs1)
  case ldir | fill => exact if_pos (by rw [Bool.and_eq_true, Bool.and_eq_true]; exact ⟨⟨hrd, hrs1⟩, hrs2⟩)
  all_goals rfl

/-- Step 6 of R64: the extension-word count, and a header with extension words. -/
theorem extCount_of_row (hx : xw ≤ op.maxExt) :
    extCount .rs2Count op.format f = xw ∧ (xw = 0 ∨ f.imm = 0#12) := by
  obtain ⟨-, -, -, hrs2, himm⟩ := EncodingRow.accepts_iff.mp h
  have hmax := op.maxExt_le
  have htoNat : (BitVec.ofNat 4 xw).toNat = xw := by rw [BitVec.toNat_ofNat]; omega
  by_cases hf : op.format = .imm ∨ op.format = .j
  · have hrow : f.rs2 = BitVec.ofNat 4 xw ∧ (xw = 0 ∨ f.imm = 0#12) := by
      rcases hf with hf | hf
      · simpa [Opcode.row, hf] using And.intro hrs2 himm
      · simpa [Opcode.row, hf] using And.intro hrs2 himm
    exact ⟨by rw [extCount_eq_rs2 hf, hrow.1, htoNat], hrow.2⟩
  · rw [not_or] at hf
    have h0 : xw = 0 := Nat.le_zero.mp (Opcode.maxExt_eq_zero hf.1 hf.2 ▸ hx)
    refine ⟨?_, .inl h0⟩
    rw [Opcode.extCount_eq_zero hf.1 hf.2, h0]

/-- A base word that an opcode's row accepts passes the decoder's checks. -/
theorem checksPass_of_row {ext : List Word32} (hlen : ext.length = xw) (hx : xw ≤ op.maxExt) : ChecksPass op f ext := by
  obtain ⟨hop, -⟩ := EncodingRow.accepts_iff.mp h
  obtain ⟨hu, hr⟩ := fieldChecks_of_row h
  obtain ⟨hcount, hheader⟩ := extCount_of_row h hx
  exact ⟨hop.trans (op.row_op xw), hu, hr, opSpecific_of_row h, hcount.trans hlen.symm, hlen ▸ hx,
    hheader.imp_left fun h0 => List.eq_nil_of_length_eq_zero (hlen.trans h0)⟩

end

end Sys2Proof

namespace Sys2Proof.Laws.EncodesLegally

/-- Every instruction has its row in the table of encodings: the family, put together. -/
theorem statement (i : Instr) : Statement i :=
  i.rec (motive := Statement)
    call callX32 callX64 ret jr jrX32 cp cpX32 drop inc dec add sub mul divs divu rems remu and or xor add64 sub64
    mul64 divs64 divu64 rems64 remu64 and64 or64 xor64 sla sra srl rol ror clz ctz popc sla64 sra64 srl64 rol64 ror64
    clz64 ctz64 popc64 eq ne lts les gts ges ltu leu gtu geu eq64 ne64 lts64 les64 gts64 ges64 ltu64 leu64 gtu64 geu64
    ld ldX32 ldX64 ld8u ld8s ld16u ld16s ld32 ld64 ld8u64 ld8s64 ld16u64 ld16s64 ld32u64 ld32s64 st8 st8_64 st16
    st16_64 st32 st32_64 st64 ldir fill

end Sys2Proof.Laws.EncodesLegally

namespace Sys2Proof

/-! ### The decoder and the table -/

/-- Settles O3: an accepted word has the fields of its instruction, which has a row; a row's rules are the decoder's checks. -/
theorem decoderAcceptsExactlyTheTable : Obligations.DecoderAcceptsExactlyTheTable := by
  intro w rest
  constructor
  · intro i h
    rw [decode_cons, decodeFields_ok_iff] at h
    obtain ⟨hfields, after, rfl⟩ := h
    obtain ⟨row, hmem, haccepts, hwords, -⟩ := Laws.EncodesLegally.statement i
    have hlen : i.len = i.ext.length + 1 := (encode_length i).symm
    exact ⟨row, hmem, hfields ▸ haccepts, hwords, by rw [hlen, List.length_append]; omega⟩
  · intro row hmem haccepts hwords
    obtain ⟨op, xw, hx, rfl⟩ := row_of_mem_encodingTable hmem
    rw [Opcode.row_words] at hwords ⊢
    have hlen : (rest.take xw).length = xw := by rw [List.length_take]; omega
    obtain ⟨i, -, hfields, hext⟩ := (checksPass_of_row haccepts hlen hx).builds
    refine ⟨i, decodeFields_ok_iff.mpr ⟨hfields.symm, rest.drop xw, ?_⟩, ?_⟩
    · rw [hext, List.take_append_drop]
    · rw [← encode_length, encode, List.length_cons, hext, hlen]

/-! ### Reserved opcodes -/

theorem opSpecific_ne_reservedOpcode (op : Opcode) (f : Fields) : opSpecific op f ≠ some .reservedOpcode := by
  cases op
  case jr | call | ldir | fill =>
    simp only [opSpecific]
    split_ifs <;> simp
  all_goals simp [opSpecific]

theorem extWords_ne_reservedOpcode (scheme : ExtScheme) (op : Opcode) (f : Fields) (rest : List Word32) :
    extWords scheme op f rest ≠ .error .reservedOpcode := by
  simp only [extWords]
  split_ifs <;> simp

/-- Step 1 of R64 is the only one that rejects by this name. -/
theorem decodeFields_eq_reservedOpcode_iff {scheme : ExtScheme} {f : Fields} {rest : List Word32} :
    decodeFields scheme f rest = .error .reservedOpcode ↔ Opcode.ofCode f.op = none := by
  cases hop : Opcode.ofCode f.op with
  | none => simp [decodeFields, hop]
  | some op =>
    refine iff_of_false (fun h => ?_) (Option.some_ne_none op)
    simp only [decodeFields, hop] at h
    split at h
    · cases h
    split at h
    · cases h
    split at h
    next r hr =>
      cases h
      exact opSpecific_ne_reservedOpcode op f hr
    split at h
    next r hr =>
      cases h
      exact extWords_ne_reservedOpcode scheme op f rest hr
    split at h
    · cases h
    · cases h

theorem ofCode_eq_none_iff (v : BitVec 8) : Opcode.ofCode v = none ↔ Machine.reservedOpcode v.toNat = true := by
  revert v
  decide

/-- Settles O4: step 1 of R64 alone rejects by this name, and the opcode values it rejects are the reserved ones. -/
theorem reservedOpcodesAreRejected : Obligations.ReservedOpcodesAreRejected := by
  refine ⟨fun w rest => ?_, fun n hn => ?_, by rfl⟩
  · rw [decode_cons, decodeFields_eq_reservedOpcode_iff, ofCode_eq_none_iff, Fields.ofWord_op_toNat]
    rfl
  · have hcode : (BitVec.ofNat 8 n).toNat = n := by rw [BitVec.toNat_ofNat]; omega
    have hreserved := ofCode_eq_none_iff (BitVec.ofNat 8 n)
    rw [hcode] at hreserved
    rw [Bool.eq_false_iff, ne_eq, ← hreserved]
    constructor
    · intro h
      obtain ⟨op, hop⟩ := Option.ne_none_iff_exists'.mp h
      exact ⟨op, by rw [Opcode.code_of_ofCode hop, hcode]⟩
    · rintro ⟨op, rfl⟩
      simp

/-! ### The fields of an accepted word -/

theorem isRegister_iff (v : BitVec 4) : isRegister v = true ↔ v.toNat ≤ 4 := by rw [isRegister_eq, decide_eq_true_iff]

theorem Opcode.eq_jr_of_format {op : Opcode} (h : op.format = .j) : op = .jr := by
  cases op
  case jr => rfl
  all_goals cases h

/-- Settles O5: each bound is one of the checks an accepted word has passed. -/
theorem registerFieldsAreChecked : Obligations.RegisterFieldsAreChecked := by
  intro w rest i op h hop
  obtain ⟨op', ext, -, hchecks, -⟩ := checksPass_of_decodeFields h
  obtain rfl : op' = op := by
    have hcode := congrArg Opcode.ofCode (hop.trans hchecks.opcode)
    simpa using hcode.symm
  have hregs := hchecks.registers
  simp only [← isRegister_iff]
  refine ⟨fun hf => ?_, fun hf => ?_, fun hf => ?_, fun hf => ?_, fun hf => ?_⟩
  · rcases hf with hf | hf | hf | hf | hf | hf <;> simp_all [registersLegal]
  · rcases hf with hf | hf | hf | hf | hf <;> simp_all [registersLegal]
  · rcases hf with hf | hf | hf <;> simp_all [registersLegal]
  · obtain rfl := Opcode.eq_jr_of_format hf
    have hcond : (Cond.ofCode (Fields.ofWord w).rs1).isSome = true := by
      simpa [opSpecific, Option.isSome_iff_ne_none] using hchecks.specific
    simpa [Cond.ofCode_isSome] using hcond
  · have hcount : (Fields.ofWord w).rs2.toNat = ext.length := by rw [← hchecks.count, extCount_eq_rs2 hf.symm]
    exact hcount.trans_le (hchecks.allowed.trans op'.maxExt_le)

end Sys2Proof
end

section
/-! A running machine always steps (R302, R352); the encoder's choice of form (R62) and the idioms of R84, each by the shared
operation its instructions are. -/

namespace Sys2Proof.Machine

/-! ### Every instruction answers a next state -/

theorem writeOrTrap_next (rd : Reg) (r : Except Trap Word) (s : State) : ∃ t, writeOrTrap rd r s = .next t := by
  cases r with
  | ok v => exact ⟨_, rfl⟩
  | error c => exact ⟨_, rfl⟩

theorem storeReg_next (n : Nat) (rs1 rs2 : Reg) (imm : BitVec 12) (s : State) : ∃ t, storeReg n rs1 rs2 imm s = .next t := by
  unfold storeReg
  split
  · exact ⟨_, rfl⟩
  · exact ⟨_, rfl⟩

theorem jumpRelative_next (cc : Cond) (disp : Int) (len : Nat) (s : State) :
    ∃ t, jumpRelative cc disp len s = .next t := by
  unfold jumpRelative
  split
  · exact ⟨_, rfl⟩
  · exact ⟨_, rfl⟩

theorem callAbsolute_next (target : Word) (len : Nat) (s : State) : ∃ t, callAbsolute target len s = .next t := by
  unfold callAbsolute
  split
  · exact ⟨_, rfl⟩
  · exact ⟨_, rfl⟩

theorem exec_ret_next (s : State) : ∃ t, exec .ret s = .next t := by
  cases hrs : s.rs with
  | nil => exact ⟨_, exec_ret_of_nil hrs⟩
  | cons ret rest => exact ⟨_, exec_ret_of_cons hrs⟩

theorem exec_macroOp_next {i : Instr} (hi : isMacroOp i = true) (s : State) : ∃ t, exec i s = .next t := by
  rcases exec_macroOp_cases (s := s) s.cmp s.rs hi with ⟨_, _, _, he, -⟩ | ⟨_, he, -⟩
  · exact ⟨_, he⟩
  · exact ⟨_, he⟩

/-- No instruction is refused (R352). -/
theorem exec_next (i : Instr) (s : State) : ∃ t, exec i s = .next t := by
  cases i
  case ret => exact exec_ret_next s
  case fill | ldir => exact exec_macroOp_next rfl s
  case call | callX32 | callX64 => exact callAbsolute_next _ _ s
  case jr | jrX32 => exact jumpRelative_next _ _ _ s
  case divs | divu | rems | remu | divs64 | divu64 | rems64 | remu64 => exact writeOrTrap_next _ _ s
  case ld8u | ld8s | ld16u | ld16s | ld32 | ld64 | ld8u64 | ld8s64 | ld16u64 | ld16s64 | ld32u64 | ld32s64 =>
    exact writeOrTrap_next _ _ s
  case st8 | st8_64 | st16 | st16_64 | st32 | st32_64 | st64 => exact storeReg_next _ _ _ _ s
  all_goals exact ⟨_, rfl⟩

theorem step_of_fetch_error {s : State} {c : Trap} (hs : s.status = .running) (hc : s.fetch = .error c) :
    step s = .next (s.raise c) := by
  simp [step, hs, hc]

/-- Settles O13: the fetch answers an instruction, and no instruction is refused, or a trap, and that is taken. -/
theorem runningMachineAlwaysSteps : Obligations.RunningMachineAlwaysSteps := by
  intro s hs
  cases hf : s.fetch with
  | error c => exact ⟨_, step_of_fetch_error hs hf⟩
  | ok i => simpa only [step_of_fetch hs hf] using exec_next i s

/-! ### Which values an immediate holds -/

/-- A value within the range of `n` bits is the sign extension of its low `n` bits (R59, R60). -/
theorem signExtend_setWidth_of_bounds {w n : Nat} (v : BitVec w) (hn : 0 < n) (hw : n ≤ w)
    (hlow : -(2 ^ (n - 1) : Int) ≤ v.toInt) (hhigh : v.toInt < 2 ^ (n - 1)) : (v.setWidth n).signExtend w = v := by
  obtain ⟨n, rfl⟩ : ∃ k, n = k + 1 := ⟨n - 1, by omega⟩
  rw [Nat.add_sub_cancel] at hlow hhigh
  have hdvd : (2 ^ (n + 1) : Nat) ∣ 2 ^ w := Nat.pow_dvd_pow 2 hw
  apply BitVec.eq_of_toInt_eq
  rw [BitVec.toInt_signExtend_of_le hw, BitVec.toInt_setWidth, ← Int.bmod_bmod_of_dvd hdvd, ← BitVec.toInt_eq_toNat_bmod]
  apply Int.bmod_eq_of_le
  · push_cast [pow_succ]
    omega
  · push_cast [pow_succ]
    omega

/-- A sign extension is within the range of its source. -/
theorem bounds_of_signExtend {w n : Nat} (imm : BitVec n) (hw : n ≤ w) :
    -(2 ^ (n - 1) : Int) ≤ (imm.signExtend w).toInt ∧ (imm.signExtend w).toInt < 2 ^ (n - 1) := by
  rw [BitVec.toInt_signExtend_of_le hw]
  exact ⟨imm.le_toInt, imm.toInt_lt⟩

theorem fits12_iff (z : Int) : fits12 z = true ↔ -(2 ^ 11) ≤ z ∧ z < 2 ^ 11 := by
  simp only [fits12, decide_eq_true_eq]
  omega

theorem fits32_iff (z : Int) : fits32 z = true ↔ -(2 ^ 31) ≤ z ∧ z < 2 ^ 31 := by
  simp only [fits32, decide_eq_true_eq]
  omega

/-- Where `IMM12` holds the value, its sign extension is the value (R59, R62). -/
theorem signExtend_of_fits12 {w : Nat} {v : BitVec w} (hw : 12 ≤ w) (h : fits12 v.toInt = true) :
    (v.setWidth 12).signExtend w = v := by
  obtain ⟨hlow, hhigh⟩ := (fits12_iff _).mp h
  exact signExtend_setWidth_of_bounds v (by decide) hw hlow hhigh

theorem fits12_signExtend {w : Nat} (hw : 12 ≤ w) (imm : BitVec 12) : fits12 (imm.signExtend w).toInt = true :=
  (fits12_iff _).mpr (bounds_of_signExtend imm hw)

theorem imm12_of_fits12 {v : Word} (h : fits12 v.toInt = true) : imm12 (v.setWidth 12) = v :=
  signExtend_of_fits12 (by decide) h

theorem fits12_imm12 (imm : BitVec 12) : fits12 (imm12 imm).toInt = true := fits12_signExtend (by decide) imm

/-- Where `IMM32` holds the value, its sign extension is the value (R60, R62). -/
theorem imm32_of_fits32 {v : Word} (h : fits32 v.toInt = true) : imm32 (v.setWidth 32) = v := by
  obtain ⟨hlow, hhigh⟩ := (fits32_iff _).mp h
  exact signExtend_setWidth_of_bounds v (by decide) (by decide) hlow hhigh

theorem fits32_imm32 (imm : Word32) : fits32 (imm32 imm).toInt = true :=
  (fits32_iff _).mpr (bounds_of_signExtend imm (by decide))

/-- The low half of a sign extension to 64 bits is the sign extension to 32 (R6). -/
theorem lo32_sext64 {n : Nat} (v : BitVec n) : lo32 (sext64 v) = v.signExtend 32 := by
  apply BitVec.eq_of_getLsbD_eq
  intro k hk
  have hk64 : k < 64 := by omega
  simp only [lo32, sext64, BitVec.getLsbD_extractLsb', BitVec.getLsbD_signExtend, Nat.zero_add, hk, hk64, decide_true,
    Bool.true_and]

/-! ### The shared operations, in the terms of the statements -/

/-- The conditions are those of the table of R170. -/
theorem condHolds_eq_condTable {w : Nat} (cc : Cond) (v : BitVec w) : condHolds cc v = condTable w cc v.toNat := by
  cases cc
  case al => rfl
  case lts | les | gts | ges => simp only [condHolds, condTable, toInt_eq_asSigned]
  case eq | ne | ltu | leu | gtu | geu =>
    rw [Bool.eq_iff_iff]
    simp [condHolds, condTable, Nat.pos_iff_ne_zero]

/-- An instruction that is a `CALL` of an address calls it or traps (R244). -/
theorem callsOrTraps_of_exec {i : Instr} {target : Word} {len : Nat} (h : ∀ s, exec i s = callAbsolute target len s) :
    CallsOrTraps i target.toInt len := by
  intro s
  rw [ne_eq, ← State.callStackFull_iff, BitVec.ofInt_toInt, TrapsWith, h]
  exact ⟨fun hf => if_neg hf, fun hf => if_pos hf⟩

/-- An instruction that is a `JR` by a displacement jumps or falls through (R240, R241). -/
theorem jumpsOrFallsThrough_of_exec {i : Instr} {cc : Cond} {disp : Int} {len : Nat}
    (h : ∀ s, exec i s = jumpRelative cc disp len s) : JumpsOrFallsThrough i cc disp len := by
  intro s
  have hcond : (cc = .al ∨ condHolds cc s.cmp = true) ↔ condTable 32 cc s.cmp.toNat = true := by
    rw [← condHolds_eq_condTable]
    refine or_iff_right_of_imp ?_
    rintro rfl
    rfl
  refine ⟨fun ht hb => ?_, fun ht hb => ?_, fun ht => ?_⟩
  · rw [h, jumpRelative, if_pos (hcond.mpr ht), State.jrTarget, hb]
    rfl
  · rw [h, jumpRelative, if_pos (hcond.mpr ht), State.jrTarget, hb]
    rfl
  · have hno : ¬ (cc = .al ∨ condHolds cc s.cmp = true) := by rw [hcond, ht]; decide
    exact ⟨s.advance len, by rw [h, jumpRelative, if_neg hno], rfl, s.advance_advancedBy len⟩

/-! ### The encoder's choice -/

theorem exec_assembleLd (rd : Reg) (v : Word) (s : State) :
    exec (assembleLd rd v) s = writeAndAdvance rd v (assembleLd rd v).len s := by
  unfold assembleLd
  split_ifs with h12 h32
  · exact congrArg (writeAndAdvance rd · 1 s) (imm12_of_fits12 h12)
  · exact congrArg (writeAndAdvance rd · 2 s) (imm32_of_fits32 h32)
  · rfl

theorem exec_assembleCall (v : Word) (s : State) : exec (assembleCall v) s = callAbsolute v (assembleCall v).len s := by
  unfold assembleCall
  split_ifs with h12 h32
  · exact congrArg (callAbsolute · 1 s) (imm12_of_fits12 h12)
  · exact congrArg (callAbsolute · 2 s) (imm32_of_fits32 h32)
  · rfl

theorem exec_assembleCp (rd : Reg) (v : Word32) (s : State) :
    exec (assembleCp rd v) s = .next ((s.setCmp (lo32 (s.reg rd) - v)).advance (assembleCp rd v).len) := by
  unfold assembleCp
  split_ifs with h12
  · show compareWith rd (imm12 (v.setWidth 12)) 1 s = _
    rw [compareWith, compareDiff, imm12, lo32_sext64, signExtend_of_fits12 (by decide) h12]
    rfl
  · show compareWith rd (imm32 v) 2 s = _
    rw [compareWith, compareDiff, imm32, lo32_sext64, BitVec.signExtend_eq]
    rfl

theorem exec_assembleJr (cc : Cond) (v : Word32) (s : State) :
    exec (assembleJr cc v) s = jumpRelative cc v.toInt (assembleJr cc v).len s := by
  unfold assembleJr
  split_ifs with h12
  · have hdisp : (v.setWidth 12).toInt = v.toInt := by
      rw [← BitVec.toInt_signExtend_of_le (v := 32) (by decide), signExtend_of_fits12 (by decide) h12]
    exact congrArg (jumpRelative cc · 1 s) hdisp
  · rfl

theorem assembleLd_completes (rd : Reg) (v : Word) (s : State) :
    Completes (assembleLd rd v) s (WritesOnly rd v (assembleLd rd v).len s) := by
  unfold Completes
  rw [exec_assembleLd]
  exact writeAndAdvance_writesOnly rd v _ s

theorem assembleLd_len (rd : Reg) (v : Word) :
    (assembleLd rd v).len = if fits12 v.toInt then 1 else if fits32 v.toInt then 2 else 3 := by
  unfold assembleLd
  split_ifs <;> rfl

theorem assembleCall_len (v : Word) :
    (assembleCall v).len = if fits12 v.toInt then 1 else if fits32 v.toInt then 2 else 3 := by
  unfold assembleCall
  split_ifs <;> rfl

/-- Settles O7: the form picked is the first whose immediate holds the value, and what it runs is said of the value. -/
theorem encoderPicksTheShortestForm : Obligations.EncoderPicksTheShortestForm := by
  refine ⟨fun rd v s => ⟨assembleLd_completes rd v s, ?_, ?_⟩,
    fun v => ⟨callsOrTraps_of_exec (exec_assembleCall v), ?_, ?_⟩,
    fun rd v s => ⟨⟨_, exec_assembleCp rd v s, rfl⟩, ?_⟩,
    fun cc v => ⟨jumpsOrFallsThrough_of_exec (exec_assembleJr cc v), ?_⟩⟩
  · rintro imm rfl
    rw [assembleLd_len, if_pos (fits12_imm12 imm)]
  · rintro imm rfl
    rw [assembleLd_len, if_pos (fits32_imm32 imm)]
    split <;> decide
  · rintro imm rfl
    rw [assembleCall_len, if_pos (fits12_imm12 imm)]
  · rintro imm rfl
    rw [assembleCall_len, if_pos (fits32_imm32 imm)]
    split <;> decide
  · rintro imm rfl
    rw [assembleCp, if_pos (fits12_signExtend (by decide) imm)]
    rfl
  · rintro imm rfl
    rw [assembleJr, if_pos (fits12_signExtend (by decide) imm)]
    rfl

/-! ### The idioms of R84 -/

/-- Two instructions one after the other advance by both their lengths (R15). -/
theorem AdvancedBy.trans {m n : Nat} {s t u : State} (hst : AdvancedBy m s t) (htu : AdvancedBy n t u) :
    AdvancedBy (m + n) s u := by
  unfold AdvancedBy at *
  omega

/-- Settles O49: each idiom writes registers only; the value of each is an identity of the words written. -/
theorem idiomsDoAsWanted : Obligations.IdiomsDoAsWanted := by
  refine ⟨fun rd rs s => ?_, fun rd rs s => ?_, fun rd s => assembleLd_completes rd 0#64 s, fun rd rs tmp v s hne => ?_⟩
  · have hcopy : s.reg rs ||| s.reg rs = s.reg rs := BitVec.or_self
    rw [← hcopy]
    exact writeAndAdvance_writesOnly rd _ 1 s
  · have hlow : BitVec.ofNat 64 ((s.reg rs).toNat % 2 ^ 32) = zext64 (s.reg32 rs ||| s.reg32 rs) := by
      rw [BitVec.or_self]
      apply BitVec.eq_of_toNat_eq
      rw [zext64, BitVec.toNat_setWidth, State.reg32_toNat, BitVec.toNat_ofNat]
      rfl
    rw [hlow]
    exact writeAndAdvance_writesOnly rd _ 1 s
  · obtain ⟨t, ht, htmp, hregs, hcmp, hrs, -, hmem, -, hpc⟩ := assembleLd_completes tmp v s
    obtain ⟨u, hu, hrd, hregs', hcmp', hrs', -, hmem', -, hpc'⟩ := writeAndAdvance_writesOnly rd (t.reg rs + t.reg tmp) 1 t
    refine ⟨_, _, t, u, rfl, ht, hu, ?_, fun r hr => ?_, fun a => (hmem' a).trans (hmem a), hcmp'.trans hcmp,
      hrs'.trans hrs, hpc.trans hpc'⟩
    · rw [hrd, htmp, hregs rs (by simpa using hne.symm)]
    · simp only [List.mem_cons, List.not_mem_nil, or_false, not_or] at hr
      rw [hregs' r (by simpa using hr.1), hregs r (by simpa using hr.2)]

end Sys2Proof.Machine
end

section
/-! The width rule (R100): what a 32-bit mnemonic reads of the registers and what it writes. -/

namespace Sys2Proof.Machine

/-! ### Small results -/

/-- A 32-bit result zero-extended is below `2^32` (R6, R100). -/
theorem zext64_toNat_lt (v : Word32) : (zext64 v).toNat < 2 ^ 32 := by
  have hv := v.isLt
  rw [zext64, BitVec.toNat_setWidth]
  omega

theorem leadingZeros_le {w : Nat} (v : BitVec w) (n : Nat) : leadingZeros v n ≤ n := by
  induction n with
  | zero => exact le_rfl
  | succ n ih =>
    rw [leadingZeros]
    split <;> omega

theorem trailingZeros_le {w : Nat} (v : BitVec w) (start n : Nat) : trailingZeros v start n ≤ n := by
  induction n generalizing start with
  | zero => exact le_rfl
  | succ n ih =>
    have htail := ih (start + 1)
    rw [trailingZeros]
    split <;> omega

theorem onesBelow_le {w : Nat} (v : BitVec w) (n : Nat) : onesBelow v n ≤ n := by
  induction n with
  | zero => exact le_rfl
  | succ n ih =>
    rw [onesBelow]
    split <;> omega

/-- A count of at most 32 is a value of 32 bits (R150). -/
theorem ofNat_toNat_lt_of_le {n : Nat} (h : n ≤ 32) : (BitVec.ofNat 64 n).toNat < 2 ^ 32 := by
  rw [BitVec.toNat_ofNat]
  omega

theorem truth_toNat_lt (b : Bool) : (truth b).toNat < 2 ^ 32 := by
  cases b
  · decide
  · decide

/-! ### The width rule of an instruction -/

/-- An instruction that writes `rd`, or traps, as `v` answers: what `v` answers depends on the low halves of the registers
only, and is a value of 32 bits. -/
structure KeepsWidthRule (i : Instr) (rd : Reg) (v : State → Except Trap Word) : Prop where
  runs : ∀ s, exec i s = writeOrTrap rd (v s) s
  low : ∀ s t : State, s.reg32 = t.reg32 → v s = v t
  small : ∀ s x, v s = .ok x → x.toNat < 2 ^ 32

/-- A 32-bit mnemonic that always completes. -/
theorem keepsWidthRule_of_write {i : Instr} {rd : Reg} {v : State → Word}
    (hi : ∀ s, exec i s = writeAndAdvance rd (v s) 1 s) (hlow : ∀ s t : State, s.reg32 = t.reg32 → v s = v t)
    (hsmall : ∀ s, (v s).toNat < 2 ^ 32) :
    KeepsWidthRule i rd (fun s => .ok (v s)) where
  runs := hi
  low s t h := congrArg Except.ok (hlow s t h)
  small s x hx := by
    obtain rfl : v s = x := by simpa using hx
    exact hsmall s

/-- A 32-bit division or remainder. -/
theorem keepsWidthRule_of_division {i : Instr} {rd : Reg} {v : State → Except Trap Word32}
    (hi : ∀ s, exec i s = writeOrTrap rd ((v s).map zext64) s) (hlow : ∀ s t : State, s.reg32 = t.reg32 → v s = v t) :
    KeepsWidthRule i rd (fun s => (v s).map zext64) where
  runs := hi
  low s t h := congrArg (·.map zext64) (hlow s t h)
  small s x hx := by
    cases hv : v s with
    | error c => simp [hv, Except.map] at hx
    | ok y =>
      obtain rfl : zext64 y = x := by simpa [hv, Except.map] using hx
      exact zext64_toNat_lt y

/-- Every 32-bit mnemonic keeps the width rule: its operands are read by `lo32`, its result is zero-extended, a count or a
truth value (R100, R130, R150, R171). -/
theorem exists_keepsWidthRule {i : Instr} {rd : Reg} (h : dest32 i = some rd) : ∃ v, KeepsWidthRule i rd v := by
  cases i
  case add | sub | mul | and | or | xor | sla | sra | srl | rol | ror | inc | dec =>
    cases h
    exact ⟨_, keepsWidthRule_of_write (fun _ => rfl) (fun _ _ hlow => by rw [hlow]) (fun _ => zext64_toNat_lt _)⟩
  case divs | divu | rems | remu =>
    cases h
    exact ⟨_, keepsWidthRule_of_division (fun _ => rfl) (fun _ _ hlow => by rw [hlow])⟩
  case clz =>
    cases h
    exact ⟨_, keepsWidthRule_of_write (fun _ => rfl) (fun _ _ hlow => by rw [hlow])
      (fun _ => ofNat_toNat_lt_of_le (leadingZeros_le _ _))⟩
  case ctz =>
    cases h
    exact ⟨_, keepsWidthRule_of_write (fun _ => rfl) (fun _ _ hlow => by rw [hlow])
      (fun _ => ofNat_toNat_lt_of_le (trailingZeros_le _ _ _))⟩
  case popc =>
    cases h
    exact ⟨_, keepsWidthRule_of_write (fun _ => rfl) (fun _ _ hlow => by rw [hlow])
      (fun _ => ofNat_toNat_lt_of_le (onesBelow_le _ _))⟩
  case eq | ne | lts | les | gts | ges | ltu | leu | gtu | geu =>
    cases h
    exact ⟨_, keepsWidthRule_of_write (fun _ => rfl) (fun _ _ hlow => by rw [hlow]) (fun _ => truth_toNat_lt _)⟩
  all_goals cases h

/-- Registers that agree modulo `2^32` have the same low halves (R6). -/
theorem reg32_eq_of_mod_eq {s t : State} (h : ∀ r, (t.reg r).toNat % 2 ^ 32 = (s.reg r).toNat % 2 ^ 32) :
    s.reg32 = t.reg32 := by
  funext r
  apply BitVec.eq_of_toNat_eq
  rw [State.reg32_toNat, State.reg32_toNat]
  exact (h r).symm

/-- Settles O24: from both states the instruction writes the same value of 32 bits to its destination, or takes the same
trap. -/
theorem upperHalvesDoNotMatterIn32Bits : Obligations.UpperHalvesDoNotMatterIn32Bits := by
  intro i rd s t regs hrd _ hregs ht
  obtain ⟨v, hv⟩ := exists_keepsWidthRule hrd
  have hu : exec i { s with regs := regs } = writeOrTrap rd (v s) { s with regs := regs } := by
    rw [hv.runs, hv.low s { s with regs := regs } (reg32_eq_of_mod_eq hregs)]
  rw [hv.runs] at ht
  rcases writeOrTrap_cases ht with ⟨x, hx, rfl⟩ | ⟨c, hc, rfl⟩
  · rw [hx] at hu
    refine ⟨regs.set rd x, hu, fun r hr => ⟨?_, ?_⟩, fun _ => ⟨?_, ?_⟩⟩
    · rw [Regs.get_set, if_neg hr]
    · rw [State.advance_reg, State.reg_setReg, if_neg hr]
    · rw [Regs.get_set_same, State.advance_reg, State.reg_setReg_same]
    · rw [State.advance_reg, State.reg_setReg_same]
      exact hv.small s x hx
  · rw [hc] at hu
    exact ⟨regs, hu, fun r _ => ⟨rfl, rfl⟩, fun hrun => by cases hrun⟩

end Sys2Proof.Machine
end

section
/-! The arithmetic and logic of formats `RRR` and `R` (R99 to R121, R157, R158): an instruction is one operation on the low
`w` bits of its operands, `w` 32 or 64; what is stated of numbers follows from what the operation does to words. -/

namespace Sys2Proof.Machine

/-! ### Encodings of the two formats -/

/-- An instruction without extension words is encoded by its base word, which the decoder reads back (R51, R64). -/
theorem encodedAs_baseWord {i : Instr} {f : Fields} (hf : i.fields = f) (hx : i.ext = []) :
    EncodedAs i [baseWord f.op.toNat f.rd.toNat f.rs1.toNat f.rs2.toNat f.imm.toNat] := by
  have he : encode i = [baseWord f.op.toNat f.rd.toNat f.rs1.toNat f.rs2.toNat f.imm.toNat] := by
    rw [encode, hf, hx, toWord_eq_baseWord]
  exact ⟨he, fun rest => he ▸ decode_encode i rest⟩

theorem encodedAs_of_fieldsRRR {i : Instr} (op : Opcode) {rd rs1 rs2 : Reg} (hf : i.fields = fieldsRRR op rd rs1 rs2)
    (hx : i.ext = []) : EncodedAs i [baseWord op.code.toNat (regNum rd) (regNum rs1) (regNum rs2) 0] := by
  rw [regNum_eq, regNum_eq, regNum_eq]
  exact (encodedAs_baseWord hf hx :)

theorem encodedAs_of_fieldsR {i : Instr} (op : Opcode) {rd : Reg} (hf : i.fields = fieldsR op rd) (hx : i.ext = []) :
    EncodedAs i [baseWord op.code.toNat (regNum rd) 0 0 0] := by
  rw [regNum_eq]
  exact (encodedAs_baseWord hf hx :)

/-! ### Operands and results of either width -/

/-- The operand of a `w`-bit mnemonic: the low `w` bits of a register (R100), `State.reg32` or `State.reg`. -/
def State.low (s : State) (w : Nat) (r : Reg) : BitVec w := (s.reg r).setWidth w

theorem State.low_toNat (s : State) (w : Nat) (r : Reg) : (s.low w r).toNat = operand w s r := BitVec.toNat_setWidth ..

theorem State.low_toInt (s : State) (w : Nat) (r : Reg) : (s.low w r).toInt = asSigned w (operand w s r) := by
  rw [toInt_eq_asSigned, State.low_toNat]

theorem State.low_eq_zero_iff (s : State) (w : Nat) (r : Reg) : s.low w r = 0#w ↔ operand w s r = 0 := by
  rw [← State.low_toNat, ← BitVec.toNat_inj, BitVec.toNat_ofNat, Nat.zero_mod]

/-- The bits of an operand are the register's, below its width. -/
theorem State.low_getLsbD (s : State) {w k : Nat} (r : Reg) (hk : k < w) : (s.low w r).getLsbD k = (s.reg r).getLsbD k := by
  simp [State.low, hk]

/-- A result of either width, zero-extended, is the number it is, wrapped (R6, R100). -/
theorem zext64_ofInt {w : Nat} (hw : w = 32 ∨ w = 64) (z : Int) : zext64 (BitVec.ofInt w z) = wrapTo w z := by
  rcases hw with rfl | rfl
  · exact zext64_eq_wrapTo _ z rfl
  · exact eq_wrapTo _ z rfl

theorem map_zext64 (r : Except Trap Word) : r.map zext64 = r := by
  cases r
  · rfl
  · rfl

/-! ### Operations of format `RRR` -/

/-- A `w`-bit instruction of format `RRR` is the operation `g` on its operands, which may trap (R99, R100). -/
structure RRROperation (mk : Reg → Reg → Reg → Instr) (op w : Nat)
    (g : BitVec w → BitVec w → Except Trap (BitVec w)) : Prop where
  encoded : ∀ rd rs1 rs2, EncodedAs (mk rd rs1 rs2) [baseWord op (regNum rd) (regNum rs1) (regNum rs2) 0]
  width : w = 32 ∨ w = 64
  runs : ∀ rd rs1 rs2 s, exec (mk rd rs1 rs2) s = writeOrTrap rd ((g (s.low w rs1) (s.low w rs2)).map zext64) s

section
variable {mk : Reg → Reg → Reg → Instr} {op w : Nat} {g : BitVec w → BitVec w → Except Trap (BitVec w)}

/-- Where the operation answers a word, the instruction writes it, zero-extended, and nothing else. -/
theorem RRROperation.completes (h : RRROperation mk op w g) {s : State} {rs1 rs2 : Reg} {v : BitVec w}
    (hg : g (s.low w rs1) (s.low w rs2) = .ok v) (rd : Reg) :
    Completes (mk rd rs1 rs2) s (WritesOnly rd (zext64 v) 1 s) := by
  rw [Completes, h.runs, hg]
  exact writeAndAdvance_writesOnly rd (zext64 v) 1 s

/-- Where the operation traps, the instruction takes the trap (R300). -/
theorem RRROperation.trapsWith (h : RRROperation mk op w g) {s : State} {rs1 rs2 : Reg} {c : Trap}
    (hg : g (s.low w rs1) (s.low w rs2) = .error c) (rd : Reg) : TrapsWith (mk rd rs1 rs2) s c := by
  rw [TrapsWith, h.runs, hg]
  rfl

/-- An operation that always answers, as integers wrapped. -/
theorem RRROperation.rrrWrites (h : RRROperation mk op w g) {f : Int → Int → Int}
    (hg : ∀ a b, g a b = .ok (BitVec.ofInt w (f a.toNat b.toNat))) : RRRWrites mk op w f := by
  intro s rd rs1 rs2
  rw [← zext64_ofInt h.width, ← State.low_toNat, ← State.low_toNat]
  exact ⟨h.encoded rd rs1 rs2, h.completes (hg _ _) rd⟩

/-- An operation that always answers, bit by bit. -/
theorem RRROperation.rrrBitwise {g : BitVec w → BitVec w → BitVec w} (h : RRROperation mk op w fun a b => .ok (g a b))
    {p : Bool → Bool → Bool} (hg : ∀ a b k, k < w → (g a b).getLsbD k = p (a.getLsbD k) (b.getLsbD k)) :
    RRRBitwise mk op w p := by
  intro s rd rs1 rs2
  obtain ⟨t, ht, hwrites⟩ := h.completes (s := s) (rs1 := rs1) (rs2 := rs2) rfl rd
  have hrd : t.reg rd = zext64 (g (s.low w rs1) (s.low w rs2)) := hwrites.1
  refine ⟨h.encoded rd rs1 rs2, t, ht, hrd ▸ hwrites, fun k hk => ?_⟩
  rw [hrd, zext64, BitVec.getLsbD_setWidth, decide_eq_true hk, Bool.true_and]
  by_cases hkw : k < w
  · rw [hg _ _ k hkw, State.low_getLsbD _ _ hkw, State.low_getLsbD _ _ hkw, decide_eq_true hkw, Bool.true_and]
  · rw [BitVec.getLsbD_of_ge _ _ (Nat.le_of_not_lt hkw), decide_eq_false hkw, Bool.false_and]

/-- A division or remainder: a trap on the zero divisor, a trap on overflow, else an answer, as integers wrapped. -/
theorem RRROperation.dividesOrTraps (h : RRROperation mk op w g) {ovf : Int → Int → Bool} {f : Nat → Nat → Int}
    (hzero : ∀ a, g a 0#w = .error .divideByZero)
    (hovf : ∀ a b, b ≠ 0#w → ovf a.toInt b.toInt = true → g a b = .error .integerOverflow)
    (hok : ∀ a b, b ≠ 0#w → ovf a.toInt b.toInt = false → g a b = .ok (BitVec.ofInt w (f a.toNat b.toNat))) :
    DividesOrTraps mk op w ovf f := by
  intro s rd rs1 rs2
  rw [ne_eq, ← State.low_eq_zero_iff, ← State.low_toInt, ← State.low_toInt, ← zext64_ofInt h.width, ← State.low_toNat,
    ← State.low_toNat]
  refine ⟨h.encoded rd rs1 rs2, fun hb => h.trapsWith ?_ rd, fun hb ho => h.trapsWith (hovf _ _ hb ho) rd,
    fun hb ho => h.completes (hok _ _ hb ho) rd⟩
  rw [hb]
  exact hzero _

end

/-! ### The instructions of format `RRR` -/

/-- A 32-bit instruction operates on `lo32` of its operands and zero-extends the result (R100). -/
theorem rrrOperation_32 {mk : Reg → Reg → Reg → Instr} {op : Nat} {g : Word32 → Word32 → Except Trap Word32}
    (hencoded : ∀ rd rs1 rs2, EncodedAs (mk rd rs1 rs2) [baseWord op (regNum rd) (regNum rs1) (regNum rs2) 0])
    (hruns : ∀ rd rs1 rs2 s, exec (mk rd rs1 rs2) s = writeOrTrap rd ((g (s.reg32 rs1) (s.reg32 rs2)).map zext64) s) :
    RRROperation mk op 32 g := ⟨hencoded, .inl rfl, hruns⟩

/-- A 64-bit instruction operates on whole registers (R100). -/
theorem rrrOperation_64 {mk : Reg → Reg → Reg → Instr} {op : Nat} {g : Word → Word → Except Trap Word}
    (hencoded : ∀ rd rs1 rs2, EncodedAs (mk rd rs1 rs2) [baseWord op (regNum rd) (regNum rs1) (regNum rs2) 0])
    (hruns : ∀ rd rs1 rs2 s, exec (mk rd rs1 rs2) s = writeOrTrap rd (g (s.reg rs1) (s.reg rs2)) s) :
    RRROperation mk op 64 g := by
  refine ⟨hencoded, .inr rfl, fun rd rs1 rs2 s => ?_⟩
  rw [map_zext64]
  exact hruns rd rs1 rs2 s

theorem rrrOperation_add : RRROperation .add 0x10 32 (fun a b => .ok (a + b)) :=
  rrrOperation_32 (fun _ _ _ => encodedAs_of_fieldsRRR .add rfl rfl) fun _ _ _ _ => rfl
theorem rrrOperation_sub : RRROperation .sub 0x11 32 (fun a b => .ok (a - b)) :=
  rrrOperation_32 (fun _ _ _ => encodedAs_of_fieldsRRR .sub rfl rfl) fun _ _ _ _ => rfl
theorem rrrOperation_mul : RRROperation .mul 0x12 32 (fun a b => .ok (a * b)) :=
  rrrOperation_32 (fun _ _ _ => encodedAs_of_fieldsRRR .mul rfl rfl) fun _ _ _ _ => rfl
theorem rrrOperation_divs : RRROperation .divs 0x13 32 divSigned :=
  rrrOperation_32 (fun _ _ _ => encodedAs_of_fieldsRRR .divs rfl rfl) fun _ _ _ _ => rfl
theorem rrrOperation_divu : RRROperation .divu 0x14 32 divUnsigned :=
  rrrOperation_32 (fun _ _ _ => encodedAs_of_fieldsRRR .divu rfl rfl) fun _ _ _ _ => rfl
theorem rrrOperation_rems : RRROperation .rems 0x15 32 remSigned :=
  rrrOperation_32 (fun _ _ _ => encodedAs_of_fieldsRRR .rems rfl rfl) fun _ _ _ _ => rfl
theorem rrrOperation_remu : RRROperation .remu 0x16 32 remUnsigned :=
  rrrOperation_32 (fun _ _ _ => encodedAs_of_fieldsRRR .remu rfl rfl) fun _ _ _ _ => rfl
theorem rrrOperation_and : RRROperation .and 0x17 32 (fun a b => .ok (a &&& b)) :=
  rrrOperation_32 (fun _ _ _ => encodedAs_of_fieldsRRR .and rfl rfl) fun _ _ _ _ => rfl
theorem rrrOperation_or : RRROperation .or 0x18 32 (fun a b => .ok (a ||| b)) :=
  rrrOperation_32 (fun _ _ _ => encodedAs_of_fieldsRRR .or rfl rfl) fun _ _ _ _ => rfl
theorem rrrOperation_xor : RRROperation .xor 0x19 32 (fun a b => .ok (a ^^^ b)) :=
  rrrOperation_32 (fun _ _ _ => encodedAs_of_fieldsRRR .xor rfl rfl) fun _ _ _ _ => rfl

theorem rrrOperation_add64 : RRROperation .add64 0x20 64 (fun a b => .ok (a + b)) :=
  rrrOperation_64 (fun _ _ _ => encodedAs_of_fieldsRRR .add64 rfl rfl) fun _ _ _ _ => rfl
theorem rrrOperation_sub64 : RRROperation .sub64 0x21 64 (fun a b => .ok (a - b)) :=
  rrrOperation_64 (fun _ _ _ => encodedAs_of_fieldsRRR .sub64 rfl rfl) fun _ _ _ _ => rfl
theorem rrrOperation_mul64 : RRROperation .mul64 0x22 64 (fun a b => .ok (a * b)) :=
  rrrOperation_64 (fun _ _ _ => encodedAs_of_fieldsRRR .mul64 rfl rfl) fun _ _ _ _ => rfl
theorem rrrOperation_divs64 : RRROperation .divs64 0x23 64 divSigned :=
  rrrOperation_64 (fun _ _ _ => encodedAs_of_fieldsRRR .divs64 rfl rfl) fun _ _ _ _ => rfl
theorem rrrOperation_divu64 : RRROperation .divu64 0x24 64 divUnsigned :=
  rrrOperation_64 (fun _ _ _ => encodedAs_of_fieldsRRR .divu64 rfl rfl) fun _ _ _ _ => rfl
theorem rrrOperation_rems64 : RRROperation .rems64 0x25 64 remSigned :=
  rrrOperation_64 (fun _ _ _ => encodedAs_of_fieldsRRR .rems64 rfl rfl) fun _ _ _ _ => rfl
theorem rrrOperation_remu64 : RRROperation .remu64 0x26 64 remUnsigned :=
  rrrOperation_64 (fun _ _ _ => encodedAs_of_fieldsRRR .remu64 rfl rfl) fun _ _ _ _ => rfl
theorem rrrOperation_and64 : RRROperation .and64 0x27 64 (fun a b => .ok (a &&& b)) :=
  rrrOperation_64 (fun _ _ _ => encodedAs_of_fieldsRRR .and64 rfl rfl) fun _ _ _ _ => rfl
theorem rrrOperation_or64 : RRROperation .or64 0x28 64 (fun a b => .ok (a ||| b)) :=
  rrrOperation_64 (fun _ _ _ => encodedAs_of_fieldsRRR .or64 rfl rfl) fun _ _ _ _ => rfl
theorem rrrOperation_xor64 : RRROperation .xor64 0x29 64 (fun a b => .ok (a ^^^ b)) :=
  rrrOperation_64 (fun _ _ _ => encodedAs_of_fieldsRRR .xor64 rfl rfl) fun _ _ _ _ => rfl

/-! ### Operations of format `R` -/

/-- A `w`-bit instruction of format `R` that is an operation on its operand, as integers wrapped (R150). -/
theorem rWrites_of_exec {mk : Reg → Instr} {op w : Nat} {g : BitVec w → BitVec w} {f : Nat → Int}
    (hencoded : ∀ rd, EncodedAs (mk rd) [baseWord op (regNum rd) 0 0 0]) (hw : w = 32 ∨ w = 64)
    (hruns : ∀ rd s, exec (mk rd) s = writeAndAdvance rd (zext64 (g (s.low w rd))) 1 s)
    (hg : ∀ a, g a = BitVec.ofInt w (f a.toNat)) : RWrites mk op w f := by
  intro s rd
  rw [← State.low_toNat, ← zext64_ofInt hw, ← hg, Completes, hruns]
  exact ⟨hencoded rd, writeAndAdvance_writesOnly rd _ 1 s⟩

/-! ### Sums, differences, products -/

/-- A word is the integer it is, modulo `2^w`. -/
theorem ofInt_natCast_toNat {w : Nat} (a : BitVec w) : BitVec.ofInt w a.toNat = a := by simp

theorem add_eq_ofInt {w : Nat} (a b : BitVec w) : a + b = BitVec.ofInt w (a.toNat + b.toNat) := by
  rw [BitVec.ofInt_add, ofInt_natCast_toNat, ofInt_natCast_toNat]

theorem sub_eq_ofInt {w : Nat} (a b : BitVec w) : a - b = BitVec.ofInt w (a.toNat - b.toNat) := by
  rw [Int.sub_eq_add_neg, BitVec.ofInt_add, BitVec.ofInt_neg, ofInt_natCast_toNat, ofInt_natCast_toNat,
    BitVec.sub_eq_add_neg]

theorem mul_eq_ofInt {w : Nat} (a b : BitVec w) : a * b = BitVec.ofInt w (a.toNat * b.toNat) := by
  rw [BitVec.ofInt_mul, ofInt_natCast_toNat, ofInt_natCast_toNat]

/-- Settles O27: the operations on words are those on integers, wrapped. -/
theorem sumsDifferencesProductsWrap : Obligations.SumsDifferencesProductsWrap :=
  ⟨rrrOperation_add.rrrWrites fun a b => congrArg Except.ok (add_eq_ofInt a b),
    rrrOperation_sub.rrrWrites fun a b => congrArg Except.ok (sub_eq_ofInt a b),
    rrrOperation_mul.rrrWrites fun a b => congrArg Except.ok (mul_eq_ofInt a b),
    rrrOperation_add64.rrrWrites fun a b => congrArg Except.ok (add_eq_ofInt a b),
    rrrOperation_sub64.rrrWrites fun a b => congrArg Except.ok (sub_eq_ofInt a b),
    rrrOperation_mul64.rrrWrites fun a b => congrArg Except.ok (mul_eq_ofInt a b)⟩

/-- Settles O28: adding and subtracting the word one. -/
theorem incDecStepByOne : Obligations.IncDecStepByOne :=
  ⟨rWrites_of_exec (fun _ => encodedAs_of_fieldsR .inc rfl rfl) (.inl rfl) (fun _ _ => rfl) (fun a => add_eq_ofInt a 1#32),
    rWrites_of_exec (fun _ => encodedAs_of_fieldsR .dec rfl rfl) (.inl rfl) (fun _ _ => rfl) (fun a => sub_eq_ofInt a 1#32)⟩

/-! ### Bit by bit -/

/-- Settles O29: bit `k` of a bitwise operation on words is the operation on their bits `k`. -/
theorem logicIsBitByBit : Obligations.LogicIsBitByBit :=
  ⟨rrrOperation_and.rrrBitwise fun _ _ _ _ => BitVec.getLsbD_and,
    rrrOperation_or.rrrBitwise fun _ _ _ _ => BitVec.getLsbD_or,
    rrrOperation_xor.rrrBitwise fun _ _ _ _ => BitVec.getLsbD_xor,
    rrrOperation_and64.rrrBitwise fun _ _ _ _ => BitVec.getLsbD_and,
    rrrOperation_or64.rrrBitwise fun _ _ _ _ => BitVec.getLsbD_or,
    rrrOperation_xor64.rrrBitwise fun _ _ _ _ => BitVec.getLsbD_xor⟩

/-! ### Quotients and remainders -/

/-- The quotient truncated toward zero, by magnitude and sign, is the one the model divides by (R101). -/
theorem quotientTowardZero_eq_tdiv (p q : Int) : quotientTowardZero p q = tdiv p q := by
  unfold quotientTowardZero tdiv
  by_cases hp : p < 0
  · obtain ⟨m, rfl⟩ : ∃ m : Nat, p = -m := ⟨p.natAbs, by omega⟩
    by_cases hq : q < 0
    · obtain ⟨n, rfl⟩ : ∃ n : Nat, q = -n := ⟨q.natAbs, by omega⟩
      rw [if_pos (iff_of_true hp hq), Int.neg_tdiv_neg, Int.natAbs_neg, Int.natAbs_neg]
      rfl
    · obtain ⟨n, rfl⟩ : ∃ n : Nat, q = n := ⟨q.natAbs, by omega⟩
      rw [if_neg (by simp only [hp, hq]; decide), Int.neg_tdiv, Int.natAbs_neg]
      rfl
  · obtain ⟨m, rfl⟩ : ∃ m : Nat, p = m := ⟨p.natAbs, by omega⟩
    by_cases hq : q < 0
    · obtain ⟨n, rfl⟩ : ∃ n : Nat, q = -n := ⟨q.natAbs, by omega⟩
      rw [if_neg (by simp only [hp, hq]; decide), Int.tdiv_neg, Int.natAbs_neg]
      rfl
    · obtain ⟨n, rfl⟩ : ∃ n : Nat, q = n := ⟨q.natAbs, by omega⟩
      rw [if_pos (iff_of_false hp hq)]
      rfl

section
variable {mk : Reg → Reg → Reg → Instr} {op w : Nat}

theorem dividesOrTraps_of_divUnsigned (h : RRROperation mk op w divUnsigned) :
    DividesOrTraps mk op w (fun _ _ => false) (fun a b => (a / b : Nat)) :=
  h.dividesOrTraps (fun _ => if_pos rfl) (fun _ _ _ ho => by cases ho) fun a b hb _ => by
    rw [divUnsigned, if_neg hb, BitVec.ofInt_natCast]

theorem dividesOrTraps_of_remUnsigned (h : RRROperation mk op w remUnsigned) :
    DividesOrTraps mk op w (fun _ _ => false) (fun a b => (a % b : Nat)) :=
  h.dividesOrTraps (fun _ => if_pos rfl) (fun _ _ _ ho => by cases ho) fun a b hb _ => by
    rw [remUnsigned, if_neg hb, BitVec.ofInt_natCast]

theorem dividesOrTraps_of_divSigned (h : RRROperation mk op w divSigned) :
    DividesOrTraps mk op w (fun p q => decide (p = -2 ^ (w - 1) ∧ q = -1))
      (fun a b => quotientTowardZero (asSigned w a) (asSigned w b)) :=
  h.dividesOrTraps (fun _ => if_pos rfl)
    (fun a b hb ho => by rw [divSigned, if_neg hb, if_pos (of_decide_eq_true ho)])
    (fun a b hb ho => by
      rw [divSigned, if_neg hb, if_neg (of_decide_eq_false ho), quotientTowardZero_eq_tdiv, toInt_eq_asSigned,
        toInt_eq_asSigned])

theorem dividesOrTraps_of_remSigned (h : RRROperation mk op w remSigned) :
    DividesOrTraps mk op w (fun _ _ => false)
      (fun a b => asSigned w a - asSigned w b * quotientTowardZero (asSigned w a) (asSigned w b)) :=
  h.dividesOrTraps (fun _ => if_pos rfl) (fun _ _ _ ho => by cases ho) fun a b hb _ => by
    rw [remSigned, if_neg hb, quotientTowardZero_eq_tdiv, toInt_eq_asSigned, toInt_eq_asSigned]

end

/-- Settles O30: the two unsigned operations, in both widths. -/
theorem unsignedDivision : Obligations.UnsignedDivision :=
  ⟨dividesOrTraps_of_divUnsigned rrrOperation_divu, dividesOrTraps_of_remUnsigned rrrOperation_remu,
    dividesOrTraps_of_divUnsigned rrrOperation_divu64, dividesOrTraps_of_remUnsigned rrrOperation_remu64⟩

/-- Settles O31: the signed quotient, in both widths. -/
theorem signedDivision : Obligations.SignedDivision :=
  ⟨dividesOrTraps_of_divSigned rrrOperation_divs, dividesOrTraps_of_divSigned rrrOperation_divs64⟩

/-- Settles O32: the signed remainder, in both widths. -/
theorem signedRemainder : Obligations.SignedRemainder :=
  ⟨dividesOrTraps_of_remSigned rrrOperation_rems, dividesOrTraps_of_remSigned rrrOperation_rems64⟩

end Sys2Proof.Machine
end

section
/-! The shifts and rotates of format `RRI12` (R130 to R141): an instruction is one operation on the low `w` bits of its operand
and the amount `u(IMM12) mod w`, `w` 32 or 64; what is stated of numbers and of bits follows from what the operation does to
words. -/

namespace Sys2Proof.Machine

/-! ### Operations of format `RRI12` -/

theorem encodedAs_of_fieldsRRI {i : Instr} (op : Opcode) {rd rs1 : Reg} {imm : BitVec 12}
    (hf : i.fields = fieldsRRI op rd rs1 imm) (hx : i.ext = []) :
    EncodedAs i [baseWord op.code.toNat (regNum rd) (regNum rs1) 0 imm.toNat] := by
  rw [regNum_eq, regNum_eq]
  exact (encodedAs_baseWord hf hx :)

/-- A `w`-bit instruction of format `RRI12` is the operation `g` on its operand and the shift amount (R130, R131). -/
structure RRIOperation (mk : Reg → Reg → BitVec 12 → Instr) (op w : Nat) (g : BitVec w → Nat → BitVec w) : Prop where
  encoded : ∀ rd rs1 imm, EncodedAs (mk rd rs1 imm) [baseWord op (regNum rd) (regNum rs1) 0 imm.toNat]
  width : w = 32 ∨ w = 64
  runs : ∀ rd rs1 imm s,
    exec (mk rd rs1 imm) s = writeAndAdvance rd (zext64 (g (s.low w rs1) (shiftAmount w imm))) 1 s

/-- The bits of a result of either width, zero-extended (R6). -/
theorem zext64_getLsbD {w k : Nat} (v : BitVec w) (hk : k < 64) : (zext64 v).getLsbD k = v.getLsbD k := by
  rw [zext64, BitVec.getLsbD_setWidth, decide_eq_true hk, Bool.true_and]

section
variable {mk : Reg → Reg → BitVec 12 → Instr} {op w : Nat} {g : BitVec w → Nat → BitVec w}

theorem RRIOperation.completes (h : RRIOperation mk op w g) (s : State) (rd rs1 : Reg) (imm : BitVec 12) :
    Completes (mk rd rs1 imm) s (WritesOnly rd (zext64 (g (s.low w rs1) (shiftAmount w imm))) 1 s) := by
  rw [Completes, h.runs]
  exact writeAndAdvance_writesOnly rd _ 1 s

theorem RRIOperation.shiftAmount_lt (h : RRIOperation mk op w g) (imm : BitVec 12) : shiftAmount w imm < w :=
  Nat.mod_lt _ (by have := h.width; omega)

/-- An operation stated of numbers, as integers wrapped. -/
theorem RRIOperation.rriWrites (h : RRIOperation mk op w g) {f : Nat → Nat → Int}
    (hg : ∀ a n, g a n = BitVec.ofInt w (f a.toNat n)) : RRIWrites mk op w f := by
  intro s rd rs1 imm
  refine ⟨h.encoded rd rs1 imm, ?_⟩
  rw [← zext64_ofInt h.width, ← State.low_toNat, ← shiftAmount, ← hg]
  exact h.completes s rd rs1 imm

/-- An operation that takes each of its `w` bits from a bit of the operand, at an index modulo `w`. -/
theorem RRIOperation.rotates (h : RRIOperation mk op w g) {src : Nat → Nat → Nat}
    (hg : ∀ a n j, n < w → j < w → (g a n).getLsbD j = a.getLsbD (src n j % w)) :
    Rotates mk op w (fun n j => src n j % w) := by
  intro s rd rs1 imm
  obtain ⟨t, ht, hwrites⟩ := h.completes s rd rs1 imm
  have hrd : t.reg rd = zext64 (g (s.low w rs1) (shiftAmount w imm)) := hwrites.1
  refine ⟨h.encoded rd rs1 imm, t, ht, hrd ▸ hwrites, fun j hj => ?_⟩
  rw [hrd, zext64_getLsbD _ hj, ← shiftAmount]
  by_cases hjw : j < w
  · have hsrc : src (shiftAmount w imm) j % w < w := Nat.mod_lt _ (by omega)
    rw [hg _ _ j (h.shiftAmount_lt imm) hjw, State.low_getLsbD _ _ hsrc, decide_eq_true hjw, Bool.true_and]
  · rw [BitVec.getLsbD_of_ge _ _ (Nat.le_of_not_lt hjw), decide_eq_false hjw, Bool.false_and]

end

/-! ### The instructions of format `RRI12` -/

/-- A 32-bit instruction operates on `lo32` of its operand and zero-extends the result (R100). -/
theorem rriOperation_32 {mk : Reg → Reg → BitVec 12 → Instr} {op : Nat} {g : Word32 → Nat → Word32}
    (hencoded : ∀ rd rs1 imm, EncodedAs (mk rd rs1 imm) [baseWord op (regNum rd) (regNum rs1) 0 imm.toNat])
    (hruns : ∀ rd rs1 imm s,
      exec (mk rd rs1 imm) s = writeAndAdvance rd (zext64 (g (s.reg32 rs1) (shiftAmount 32 imm))) 1 s) :
    RRIOperation mk op 32 g := ⟨hencoded, .inl rfl, hruns⟩

/-- A 64-bit instruction operates on the whole register (R100). -/
theorem rriOperation_64 {mk : Reg → Reg → BitVec 12 → Instr} {op : Nat} {g : Word → Nat → Word}
    (hencoded : ∀ rd rs1 imm, EncodedAs (mk rd rs1 imm) [baseWord op (regNum rd) (regNum rs1) 0 imm.toNat])
    (hruns : ∀ rd rs1 imm s, exec (mk rd rs1 imm) s = writeAndAdvance rd (g (s.reg rs1) (shiftAmount 64 imm)) 1 s) :
    RRIOperation mk op 64 g := ⟨hencoded, .inr rfl, hruns⟩

theorem rriOperation_sla : RRIOperation .sla 0x30 32 shiftLeft :=
  rriOperation_32 (fun _ _ _ => encodedAs_of_fieldsRRI .sla rfl rfl) fun _ _ _ _ => rfl
theorem rriOperation_sra : RRIOperation .sra 0x31 32 shiftRightArith :=
  rriOperation_32 (fun _ _ _ => encodedAs_of_fieldsRRI .sra rfl rfl) fun _ _ _ _ => rfl
theorem rriOperation_srl : RRIOperation .srl 0x32 32 shiftRightLogic :=
  rriOperation_32 (fun _ _ _ => encodedAs_of_fieldsRRI .srl rfl rfl) fun _ _ _ _ => rfl
theorem rriOperation_rol : RRIOperation .rol 0x33 32 rotLeft :=
  rriOperation_32 (fun _ _ _ => encodedAs_of_fieldsRRI .rol rfl rfl) fun _ _ _ _ => rfl
theorem rriOperation_ror : RRIOperation .ror 0x34 32 rotRight :=
  rriOperation_32 (fun _ _ _ => encodedAs_of_fieldsRRI .ror rfl rfl) fun _ _ _ _ => rfl

theorem rriOperation_sla64 : RRIOperation .sla64 0x40 64 shiftLeft :=
  rriOperation_64 (fun _ _ _ => encodedAs_of_fieldsRRI .sla64 rfl rfl) fun _ _ _ _ => rfl
theorem rriOperation_sra64 : RRIOperation .sra64 0x41 64 shiftRightArith :=
  rriOperation_64 (fun _ _ _ => encodedAs_of_fieldsRRI .sra64 rfl rfl) fun _ _ _ _ => rfl
theorem rriOperation_srl64 : RRIOperation .srl64 0x42 64 shiftRightLogic :=
  rriOperation_64 (fun _ _ _ => encodedAs_of_fieldsRRI .srl64 rfl rfl) fun _ _ _ _ => rfl
theorem rriOperation_rol64 : RRIOperation .rol64 0x43 64 rotLeft :=
  rriOperation_64 (fun _ _ _ => encodedAs_of_fieldsRRI .rol64 rfl rfl) fun _ _ _ _ => rfl
theorem rriOperation_ror64 : RRIOperation .ror64 0x44 64 rotRight :=
  rriOperation_64 (fun _ _ _ => encodedAs_of_fieldsRRI .ror64 rfl rfl) fun _ _ _ _ => rfl

/-! ### Shifts, as products and quotients -/

theorem shiftLeft_eq_ofInt {w : Nat} (a : BitVec w) (n : Nat) :
    shiftLeft a n = BitVec.ofInt w (a.toNat * 2 ^ n) := by
  have hpow : (a.toNat * 2 ^ n : Int) = (a.toNat <<< n : Nat) := by rw [Nat.shiftLeft_eq]; push_cast; rfl
  rw [hpow, BitVec.ofInt_natCast]
  rfl

theorem shiftRightArith_eq_ofInt {w : Nat} (a : BitVec w) (n : Nat) :
    shiftRightArith a n = BitVec.ofInt w (asSigned w a.toNat / 2 ^ n) := by
  rw [shiftRightArith, BitVec.sshiftRight, Int.shiftRight_eq_div_pow, toInt_eq_asSigned]
  push_cast
  rfl

theorem shiftRightLogic_eq_ofInt {w : Nat} (a : BitVec w) (n : Nat) :
    shiftRightLogic a n = BitVec.ofInt w (a.toNat / 2 ^ n : Nat) := by
  rw [← Nat.shiftRight_eq_div_pow, ← BitVec.toNat_ushiftRight, ofInt_natCast_toNat]
  rfl

/-- Settles O33: the shifts of words are products and floor quotients by a power of two, wrapped. -/
theorem shiftsAreProductsAndQuotients : Obligations.ShiftsAreProductsAndQuotients :=
  ⟨rriOperation_sla.rriWrites shiftLeft_eq_ofInt, rriOperation_sra.rriWrites shiftRightArith_eq_ofInt,
    rriOperation_srl.rriWrites shiftRightLogic_eq_ofInt, rriOperation_sla64.rriWrites shiftLeft_eq_ofInt,
    rriOperation_sra64.rriWrites shiftRightArith_eq_ofInt, rriOperation_srl64.rriWrites shiftRightLogic_eq_ofInt⟩

/-! ### Rotates, bit by bit -/

/-- The model's rotates are the library's, the amount zero included. -/
theorem rotLeft_eq_rotateLeft {w n : Nat} (a : BitVec w) (hn : n < w) : rotLeft a n = a.rotateLeft n := by
  rw [rotLeft, BitVec.rotateLeft_def, Nat.mod_eq_of_lt hn]
  split_ifs with h0
  · simp [h0, BitVec.ushiftRight_eq_zero]
  · rfl

theorem rotRight_eq_rotateRight {w n : Nat} (a : BitVec w) (hn : n < w) : rotRight a n = a.rotateRight n := by
  rw [rotRight, BitVec.rotateRight_def, Nat.mod_eq_of_lt hn]
  split_ifs with h0
  · simp [h0]
  · exact BitVec.or_comm ..

/-- Rotated left, bit `j` is the bit `n` below it, or, where there is none, the bit as far below the top. -/
theorem rotLeft_getLsbD {w : Nat} (a : BitVec w) (n j : Nat) (hn : n < w) (hj : j < w) :
    (rotLeft a n).getLsbD j = a.getLsbD ((j + w - n) % w) := by
  rw [rotLeft_eq_rotateLeft a hn, BitVec.getLsbD_rotateLeft, Nat.mod_eq_of_lt hn]
  by_cases hjn : j < n
  · have hsrc : (j + w - n) % w = w - n + j := by rw [Nat.mod_eq_of_lt (by omega)]; omega
    rw [hsrc, decide_eq_true hjn, cond_true]
  · have hsrc : (j + w - n) % w = j - n := by
      rw [Nat.sub_add_comm (Nat.le_of_not_lt hjn), Nat.add_mod_right, Nat.mod_eq_of_lt (by omega)]
    rw [hsrc, decide_eq_false hjn, cond_false, decide_eq_true hj, Bool.true_and]

/-- Rotated right, bit `j` is the bit `n` above it, or, where there is none, the bit as far above the bottom. -/
theorem rotRight_getLsbD {w : Nat} (a : BitVec w) (n j : Nat) (hn : n < w) (hj : j < w) :
    (rotRight a n).getLsbD j = a.getLsbD ((j + n) % w) := by
  rw [rotRight_eq_rotateRight a hn, BitVec.getLsbD_rotateRight, Nat.mod_eq_of_lt hn]
  by_cases hjn : j < w - n
  · have hsrc : (j + n) % w = n + j := by rw [Nat.mod_eq_of_lt (by omega), Nat.add_comm]
    rw [hsrc, decide_eq_true hjn, cond_true]
  · have hsrc : (j + n) % w = j - (w - n) := by
      rw [Nat.mod_eq_sub_mod (by omega), Nat.mod_eq_of_lt (by omega)]; omega
    rw [hsrc, decide_eq_false hjn, cond_false, decide_eq_true hj, Bool.true_and]

/-- Settles O34: where each bit of a rotated word comes from, in both widths. -/
theorem rotatesMoveEveryBit : Obligations.RotatesMoveEveryBit :=
  ⟨rriOperation_rol.rotates rotLeft_getLsbD, rriOperation_ror.rotates rotRight_getLsbD,
    rriOperation_rol64.rotates rotLeft_getLsbD, rriOperation_ror64.rotates rotRight_getLsbD⟩

end Sys2Proof.Machine
end

section
/-! The counts of format `R` (R150 to R156): what each recursion over the bits of a word counts, said of the word as a number,
and the instructions that write such a count in place. -/

namespace Sys2Proof.Machine

/-! ### What a count says of its operand -/

/-- The bits below `n` as a number: it is zero and all `n` are leading zeros, or its highest one bit stands right below the
leading zeros (R151, R154). -/
theorem leadingZeros_spec {w : Nat} (v : BitVec w) (n : Nat) :
    v.toNat % 2 ^ n = 0 ∧ leadingZeros v n = n ∨
      leadingZeros v n < n ∧ 2 ^ (n - 1 - leadingZeros v n) ≤ v.toNat % 2 ^ n ∧
        v.toNat % 2 ^ n < 2 ^ (n - leadingZeros v n) := by
  induction n with
  | zero => exact .inl ⟨Nat.mod_one _, rfl⟩
  | succ n ih =>
    rw [leadingZeros, Nat.mod_pow_succ, ← Nat.toNat_testBit, BitVec.testBit_toNat, Nat.add_sub_cancel]
    cases v.getLsbD n with
    | true =>
      have hlow : v.toNat % 2 ^ n < 2 ^ n := Nat.mod_lt _ (Nat.two_pow_pos n)
      rw [if_pos rfl, Bool.toNat_true, Nat.sub_zero, Nat.sub_zero, Nat.pow_succ]
      omega
    | false =>
      rw [if_neg Bool.false_ne_true, Bool.toNat_false, Nat.mul_zero, Nat.add_zero, Nat.add_sub_add_right,
        Nat.add_comm _ 1, ← Nat.sub_sub]
      omega

/-- The `n` bits from `start` up as a number: it is zero and all `n` are trailing zeros, or its lowest one bit stands right
above the trailing zeros (R152, R155). -/
theorem trailingZeros_spec {w : Nat} (v : BitVec w) (start n : Nat) :
    v.toNat / 2 ^ start % 2 ^ n = 0 ∧ trailingZeros v start n = n ∨
      trailingZeros v start n < n ∧ v.toNat / 2 ^ start % 2 ^ trailingZeros v start n = 0 ∧
        v.toNat / 2 ^ start / 2 ^ trailingZeros v start n % 2 = 1 := by
  induction n generalizing start with
  | zero => exact .inl ⟨Nat.mod_one _, rfl⟩
  | succ n ih =>
    have hbit : v.getLsbD start = decide (v.toNat / 2 ^ start % 2 = 1) := by
      rw [← BitVec.testBit_toNat, Nat.testBit_eq_decide_div_mod_eq]
    have htail := ih (start + 1)
    rw [Nat.pow_succ, ← Nat.div_div_eq_div_mul] at htail
    rw [trailingZeros, hbit]
    by_cases hone : v.toNat / 2 ^ start % 2 = 1
    · rw [decide_eq_true hone, if_pos rfl, Nat.pow_zero, Nat.div_one]
      exact .inr ⟨n.succ_pos, Nat.mod_one _, hone⟩
    · obtain ⟨half, hhalf⟩ : ∃ half, v.toNat / 2 ^ start = 2 * half := ⟨v.toNat / 2 ^ start / 2, by omega⟩
      rw [hhalf, Nat.mul_div_cancel_left half two_pos] at htail
      rw [decide_eq_false hone, if_neg Bool.false_ne_true, hhalf, Nat.pow_succ', Nat.pow_succ', Nat.mul_mod_mul_left,
        Nat.mul_mod_mul_left, Nat.mul_div_mul_left _ _ two_pos]
      omega

/-- The one bits below `n`, listed (R153, R156). -/
theorem onesBelow_eq_length_filter {w : Nat} (v : BitVec w) (n : Nat) :
    onesBelow v n = ((List.range n).filter (fun k => v.toNat.testBit k)).length := by
  induction n with
  | zero => rfl
  | succ n ih =>
    rw [onesBelow, ih, List.range_succ, List.filter_append, List.length_append, List.filter_singleton,
      BitVec.testBit_toNat]
    cases v.getLsbD n with
    | true => rfl
    | false => rfl

theorem clz_spec {w : Nat} (a : BitVec w) :
    a.toNat = 0 ∧ clz a = w ∨ clz a < w ∧ 2 ^ (w - 1 - clz a) ≤ a.toNat ∧ a.toNat < 2 ^ (w - clz a) := by
  have h := leadingZeros_spec a w
  rwa [Nat.mod_eq_of_lt a.isLt] at h

theorem ctz_spec {w : Nat} (a : BitVec w) :
    a.toNat = 0 ∧ ctz a = w ∨ ctz a < w ∧ a.toNat % 2 ^ ctz a = 0 ∧ a.toNat / 2 ^ ctz a % 2 = 1 := by
  have h := trailingZeros_spec a 0 w
  rwa [Nat.pow_zero, Nat.div_one, Nat.mod_eq_of_lt a.isLt] at h

/-! ### The instructions that count -/

/-- A `w`-bit instruction of format `R` that writes the count `count` of its operand in place (R150). -/
theorem counts_of_exec {mk : Reg → Instr} {op w : Nat} {count : BitVec w → Nat} {P : Nat → Nat → Prop}
    (hencoded : ∀ rd, EncodedAs (mk rd) [baseWord op (regNum rd) 0 0 0])
    (hruns : ∀ rd s, exec (mk rd) s = writeAndAdvance rd (BitVec.ofNat 64 (count (s.low w rd))) 1 s)
    (hle : ∀ a, count a ≤ w) (hcount : ∀ a, P a.toNat (count a)) : Counts mk op w P := by
  intro s rd
  refine ⟨hencoded rd, count (s.low w rd), hle _, ?_, ?_⟩
  · rw [← State.low_toNat]
    exact hcount _
  · rw [Completes, hruns]
    exact writeAndAdvance_writesOnly rd _ 1 s

/-- Settles O35: each count by its recursion over the bits, in both widths. -/
theorem countsOfBits : Obligations.CountsOfBits :=
  ⟨counts_of_exec (fun _ => encodedAs_of_fieldsR .clz rfl rfl) (fun _ _ => rfl) (fun a => leadingZeros_le a 32) clz_spec,
    counts_of_exec (fun _ => encodedAs_of_fieldsR .ctz rfl rfl) (fun _ _ => rfl) (fun a => trailingZeros_le a 0 32) ctz_spec,
    counts_of_exec (fun _ => encodedAs_of_fieldsR .popc rfl rfl) (fun _ _ => rfl) (fun a => onesBelow_le a 32)
      (fun a => onesBelow_eq_length_filter a 32),
    counts_of_exec (fun _ => encodedAs_of_fieldsR .clz64 rfl rfl) (fun _ _ => rfl) (fun a => leadingZeros_le a 64) clz_spec,
    counts_of_exec (fun _ => encodedAs_of_fieldsR .ctz64 rfl rfl) (fun _ _ => rfl) (fun a => trailingZeros_le a 0 64) ctz_spec,
    counts_of_exec (fun _ => encodedAs_of_fieldsR .popc64 rfl rfl) (fun _ _ => rfl) (fun a => onesBelow_le a 64)
      (fun a => onesBelow_eq_length_filter a 64)⟩

end Sys2Proof.Machine
end

section
/-! Comparison and the conditional jump: the compare/set tests of format `R` (R170 to R191), `CP` (R192) and `JR` (R240 to
R242), each by its shared operation; and the base words of `CP` and `JR` that fail a check of R64. -/

namespace Sys2Proof.ChecksPass

/-! ### What the checks say of formats `IMM` and `J` -/

section
variable {op : Opcode} {f : Fields} {ext : List Word32} (h : ChecksPass op f ext) (hf : op.format = .imm ∨ op.format = .j)
include h hf

/-- The extension-word count is one the opcode allows (R58). -/
theorem rs2_le_maxExt : f.rs2.toNat ≤ op.maxExt := by
  rw [← extCount_eq_rs2 hf, h.count]
  exact h.allowed

/-- A header, a base word with extension words, has `IMM12` zero (R58). -/
theorem rs2_eq_zero_or_imm_eq_zero : f.rs2.toNat = 0 ∨ f.imm = 0#12 := by
  rw [← extCount_eq_rs2 hf, h.count, List.length_eq_zero_iff]
  exact h.header

end

/-- The fields of a base word of `JR` (R76, R242). -/
theorem jr_fields {f : Fields} {ext : List Word32} (h : ChecksPass .jr f ext) :
    f.rd = 0#4 ∧ f.rs1.toNat ≤ 10 ∧ f.rs2.toNat ≤ 1 ∧ (f.rs2.toNat = 0 ∨ f.imm = 0#12) := by
  have hcond : (Cond.ofCode f.rs1).isSome = true := by
    simpa [opSpecific, Option.isSome_iff_ne_none] using h.specific
  rw [Cond.ofCode_isSome, decide_eq_true_iff] at hcond
  exact ⟨beq_iff_eq.mp h.unused, hcond, h.rs2_le_maxExt (.inr rfl), h.rs2_eq_zero_or_imm_eq_zero (.inr rfl)⟩

end Sys2Proof.ChecksPass

namespace Sys2Proof.Machine

/-! ### Encodings with extension words, and rejected base words -/

/-- An instruction is encoded by its base word and its extension words, which the decoder reads back (R51, R58, R64). -/
theorem encodedAs_of_fieldsExt {i : Instr} (op : Opcode) {rd rs1 xw : BitVec 4} {imm : BitVec 12} {ext : List Word32}
    (hf : i.fields = fieldsExt op rd rs1 xw imm) (hx : i.ext = ext) :
    EncodedAs i (baseWord op.code.toNat rd.toNat rs1.toNat xw.toNat imm.toNat :: ext) := by
  have he : encode i = baseWord op.code.toNat rd.toNat rs1.toNat xw.toNat imm.toNat :: ext := by
    rw [encode, hf, hx, toWord_eq_baseWord, fieldsExt]
  exact ⟨he, fun rest => he ▸ decode_encode i rest⟩

/-- Field values that fit are the fields of their base word (R51). -/
theorem ofWord_baseWord {op rd rs1 rs2 imm : Nat} (hop : op < 256) (hrd : rd < 16) (hrs1 : rs1 < 16) (hrs2 : rs2 < 16)
    (himm : imm < 4096) : Fields.ofWord (baseWord op rd rs1 rs2 imm) =
      ⟨BitVec.ofNat 8 op, BitVec.ofNat 4 rd, BitVec.ofNat 4 rs1, BitVec.ofNat 4 rs2, BitVec.ofNat 12 imm⟩ := by
  rw [← Fields.ofWord_toWord ⟨BitVec.ofNat 8 op, _, _, _, _⟩, toWord_eq_baseWord]
  simp only [BitVec.toNat_ofNat, Nat.reducePow, Nat.mod_eq_of_lt, hop, hrd, hrs1, hrs2, himm]

/-- A base word of an opcode that fails a check of R64 whatever its extension words is rejected. -/
theorem rejected_of_not_checksPass {w : Word32} {f : Fields} (op : Opcode) (hw : Fields.ofWord w = f) (hop : f.op = op.code)
    (h : ∀ ext, ¬ ChecksPass op f ext) : Rejected w := by
  subst hw
  intro rest
  cases hd : decode .rs2Count (w :: rest) with
  | error r => exact ⟨r, rfl⟩
  | ok i =>
    obtain ⟨op', ext, -, hchecks, -⟩ := checksPass_of_decodeFields hd
    obtain rfl : op' = op := by simpa using congrArg Opcode.ofCode (hchecks.opcode.symm.trans hop)
    exact absurd hchecks (h ext)

/-! ### The compare/set tests -/

/-- A truth value is the number 1 or 0, wrapped at either width (R171). -/
theorem truth_eq_zext64 {w : Nat} (hw : w = 32 ∨ w = 64) (b : Bool) :
    truth b = zext64 (BitVec.ofInt w (if b then 1 else 0)) := by
  rcases hw with rfl | rfl
  · cases b <;> rfl
  · cases b <;> rfl

/-- A `w`-bit test of its operand by a condition writes in place what the table of R170 says of it, as 1 or 0 (R171). -/
theorem rWrites_of_setOnCond {mk : Reg → Instr} {w : Nat} (op : Opcode) (cc : Cond) {f : Nat → Int} (hw : w = 32 ∨ w = 64)
    (hmk : ∀ rd, (mk rd).fields = fieldsR op rd ∧ (mk rd).ext = [] ∧ ∀ s, exec (mk rd) s = setOnCond cc (s.low w rd) rd s)
    (hf : ∀ v, (if condTable w cc v then 1 else 0) = f v) : RWrites mk op.code.toNat w f := by
  refine rWrites_of_exec (g := fun a => BitVec.ofInt w (f a.toNat)) (fun rd => ?_) hw (fun rd s => ?_) (fun _ => rfl)
  · obtain ⟨hfields, hext, -⟩ := hmk rd
    exact encodedAs_of_fieldsR op hfields hext
  · obtain ⟨-, -, hruns⟩ := hmk rd
    rw [hruns, setOnCond, condHolds_eq_condTable, truth_eq_zext64 hw, hf]

/-- Settles O36: each instruction is the test by its condition, which the table of R170 spells out. -/
theorem compareSetTestsLowHalf : Obligations.CompareSetTestsLowHalf :=
  ⟨rWrites_of_setOnCond .eq .eq (.inl rfl) (fun _ => ⟨rfl, rfl, fun _ => rfl⟩) fun _ => if_congr beq_iff_eq rfl rfl,
    rWrites_of_setOnCond .ne .ne (.inl rfl) (fun _ => ⟨rfl, rfl, fun _ => rfl⟩) fun _ => if_congr bne_iff_ne rfl rfl,
    rWrites_of_setOnCond .lts .lts (.inl rfl) (fun _ => ⟨rfl, rfl, fun _ => rfl⟩) fun _ => if_congr decide_eq_true_iff rfl rfl,
    rWrites_of_setOnCond .les .les (.inl rfl) (fun _ => ⟨rfl, rfl, fun _ => rfl⟩) fun _ => if_congr decide_eq_true_iff rfl rfl,
    rWrites_of_setOnCond .gts .gts (.inl rfl) (fun _ => ⟨rfl, rfl, fun _ => rfl⟩) fun _ => if_congr decide_eq_true_iff rfl rfl,
    rWrites_of_setOnCond .ges .ges (.inl rfl) (fun _ => ⟨rfl, rfl, fun _ => rfl⟩) fun _ => if_congr decide_eq_true_iff rfl rfl,
    rWrites_of_setOnCond .ltu .ltu (.inl rfl) (fun _ => ⟨rfl, rfl, fun _ => rfl⟩) fun _ => rfl,
    rWrites_of_setOnCond .leu .leu (.inl rfl) (fun _ => ⟨rfl, rfl, fun _ => rfl⟩) fun _ => if_congr beq_iff_eq rfl rfl,
    rWrites_of_setOnCond .gtu .gtu (.inl rfl) (fun _ => ⟨rfl, rfl, fun _ => rfl⟩) fun _ => if_congr bne_iff_ne rfl rfl,
    rWrites_of_setOnCond .geu .geu (.inl rfl) (fun _ => ⟨rfl, rfl, fun _ => rfl⟩) fun _ => rfl⟩

/-- Settles O37: the same tests of all 64 bits. -/
theorem compareSetTestsAllBits : Obligations.CompareSetTestsAllBits :=
  ⟨rWrites_of_setOnCond .eq64 .eq (.inr rfl) (fun _ => ⟨rfl, rfl, fun _ => rfl⟩) fun _ => if_congr beq_iff_eq rfl rfl,
    rWrites_of_setOnCond .ne64 .ne (.inr rfl) (fun _ => ⟨rfl, rfl, fun _ => rfl⟩) fun _ => if_congr bne_iff_ne rfl rfl,
    rWrites_of_setOnCond .lts64 .lts (.inr rfl) (fun _ => ⟨rfl, rfl, fun _ => rfl⟩) fun _ => if_congr decide_eq_true_iff rfl rfl,
    rWrites_of_setOnCond .les64 .les (.inr rfl) (fun _ => ⟨rfl, rfl, fun _ => rfl⟩) fun _ => if_congr decide_eq_true_iff rfl rfl,
    rWrites_of_setOnCond .gts64 .gts (.inr rfl) (fun _ => ⟨rfl, rfl, fun _ => rfl⟩) fun _ => if_congr decide_eq_true_iff rfl rfl,
    rWrites_of_setOnCond .ges64 .ges (.inr rfl) (fun _ => ⟨rfl, rfl, fun _ => rfl⟩) fun _ => if_congr decide_eq_true_iff rfl rfl,
    rWrites_of_setOnCond .ltu64 .ltu (.inr rfl) (fun _ => ⟨rfl, rfl, fun _ => rfl⟩) fun _ => rfl,
    rWrites_of_setOnCond .leu64 .leu (.inr rfl) (fun _ => ⟨rfl, rfl, fun _ => rfl⟩) fun _ => if_congr beq_iff_eq rfl rfl,
    rWrites_of_setOnCond .gtu64 .gtu (.inr rfl) (fun _ => ⟨rfl, rfl, fun _ => rfl⟩) fun _ => if_congr bne_iff_ne rfl rfl,
    rWrites_of_setOnCond .geu64 .geu (.inr rfl) (fun _ => ⟨rfl, rfl, fun _ => rfl⟩) fun _ => rfl⟩

/-! ### `CP` -/

/-- The difference from a sign-extended immediate is that of the numbers, wrapped to 32 bits (R192). -/
theorem compareDiff_sext64 {n : Nat} (x : Word) (imm : BitVec n) :
    compareDiff x (sext64 imm) = BitVec.ofInt 32 ((x.toNat % 2 ^ 32 : Nat) - asSigned n imm.toNat) := by
  have hlow : (lo32 x).toNat = x.toNat % 2 ^ 32 := BitVec.extractLsb'_toNat ..
  rw [compareDiff, lo32_sext64, ← hlow, ← toInt_eq_asSigned, Int.sub_eq_add_neg, BitVec.ofInt_add, BitVec.ofInt_neg,
    ofInt_natCast_toNat, BitVec.sub_eq_add_neg]
  rfl

/-- An instruction that is a `CP` with an immediate of `n` bits writes the difference to `CMP` and nothing else (R192). -/
theorem compares_of_exec {i : Instr} {rd : Reg} {n len : Nat} {imm : BitVec n} {s : State}
    (h : exec i s = compareWith rd (sext64 imm) len s) :
    Completes i s (fun t => t.cmp = BitVec.ofInt 32 (operand 32 s rd - asSigned n imm.toNat) ∧
      SameMemory s t ∧ KeepsButMemoryCmp [] len s t) :=
  ⟨(s.setCmp (compareDiff (s.reg rd) (sext64 imm))).advance len, h, compareDiff_sext64 (s.reg rd) imm, fun _ => rfl,
    fun _ _ => rfl, rfl, rfl, ⟨rfl, rfl⟩, s.nextPc_toNat len⟩

/-- Settles O38: both forms are the one comparison; `CP` allows one extension word at most (R58). -/
theorem cpWritesTheDifference : Obligations.CpWritesTheDifference := by
  refine ⟨fun s rd imm => ⟨?_, compares_of_exec rfl⟩, fun s rd imm => ⟨?_, compares_of_exec rfl⟩, fun rd imm hrd himm => ?_⟩
  · rw [regNum_eq]
    exact (encodedAs_of_fieldsExt (i := .cp rd imm) .cp rfl rfl :)
  · rw [regNum_eq]
    exact (encodedAs_of_fieldsExt (i := .cpX32 rd imm) .cp rfl rfl :)
  · refine rejected_of_not_checksPass .cp (ofWord_baseWord (by decide) hrd (by decide) (by decide) himm) rfl fun ext h => ?_
    have hxw : 2 ≤ 1 := h.rs2_le_maxExt (.inl rfl)
    exact absurd hxw (by decide)

/-! ### `JR` -/

/-- Settles O45: both lengths are the one jump; a word with one of the faults named fails a check of R64. -/
theorem jrJumpsOnItsCondition : Obligations.JrJumpsOnItsCondition := by
  refine ⟨fun cc imm => ⟨?_, ?_⟩, fun cc imm => ⟨?_, ?_⟩, fun rd cc xw imm hrd hcc hxw himm hfault => ?_⟩
  · rw [condNum_eq]
    exact (encodedAs_of_fieldsExt (i := .jr cc imm) .jr rfl rfl :)
  · rw [← toInt_eq_asSigned]
    exact jumpsOrFallsThrough_of_exec fun _ => rfl
  · rw [condNum_eq]
    exact (encodedAs_of_fieldsExt (i := .jrX32 cc imm) .jr rfl rfl :)
  · rw [← toInt_eq_asSigned]
    exact jumpsOrFallsThrough_of_exec fun _ => rfl
  · refine rejected_of_not_checksPass .jr (ofWord_baseWord (by decide) hrd hcc hxw himm) rfl fun ext h => ?_
    have hfields := h.jr_fields
    simp only [← BitVec.toNat_inj, BitVec.toNat_ofNat] at hfields
    omega

end Sys2Proof.Machine
end

section
/-! The loads (R200 to R213): each is `MemRead` at the effective address and an extension of the value read, and what the
extension writes is a number, wrapped. -/

namespace Sys2Proof.Machine

/-! ### The value of a range of bytes -/

theorem Memory.readBytes_succ (m : Memory) (x n : Nat) :
    Memory.readBytes m x (n + 1) = Memory.read m x :: Memory.readBytes m (x + 1) n := by
  simp [Memory.readBytes, List.range_succ_eq_map, Nat.add_assoc, Nat.add_comm 1]

theorem memValue_succ (m : Memory) (x n : Nat) :
    memValue m x (n + 1) = (Memory.read m x).toNat + 256 * memValue m (x + 1) n := by
  have hdigit (k : Nat) : (Memory.read m (x + (k + 1))).toNat * 256 ^ (k + 1) =
      256 * ((Memory.read m (x + 1 + k)).toNat * 256 ^ k) := by
    rw [Nat.add_right_comm x 1 k, ← Nat.add_assoc x k 1]
    ring
  simp [memValue, List.range_succ_eq_map, Function.comp_def, hdigit, List.sum_map_mul_left]

/-- The number that `MemRead` makes of its bytes is their sum by powers of 256 (R31, R36). -/
theorem ofLeBytes_readBytes (m : Memory) (x n : Nat) : ofLeBytes (Memory.readBytes m x n) = memValue m x n := by
  induction n generalizing x with
  | zero => rfl
  | succ n ih => rw [Memory.readBytes_succ, ofLeBytes, ih, memValue_succ]

theorem memValue_lt (m : Memory) (x n : Nat) : memValue m x n < 2 ^ (8 * n) := by
  have h := ofLeBytes_lt (Memory.readBytes m x n)
  rwa [ofLeBytes_readBytes, Memory.readBytes_length, show (256 : Nat) = 2 ^ 8 from rfl, ← Nat.pow_mul] at h

/-- What `MemRead` answers in bounds, as a number (R31, R36). -/
theorem State.memRead_toNat {s : State} {addr : Int} {n : Nat} {v : BitVec (8 * n)} (h : s.memRead addr n = .ok v) :
    v.toNat = memValue s.mem addr.toNat n := by
  obtain ⟨-, rfl⟩ := (s.memRead_ok_iff addr n v).mp h
  rw [ofLeBytes_readBytes, BitVec.toNat_ofNat, Nat.mod_eq_of_lt (memValue_lt ..)]

/-! ### The extensions, as numbers -/

/-- A value zero-extended to 64 bits (R6). -/
theorem zext64_eq_wrapTo_toNat {n : Nat} (v : BitVec n) : zext64 v = wrapTo 64 v.toNat :=
  eq_wrapTo _ _ (by rw [BitVec.ofInt_natCast, BitVec.ofNat_toNat, zext64])

/-- A value sign-extended to 64 bits (R6). -/
theorem sext64_eq_wrapTo {n : Nat} (v : BitVec n) : sext64 v = wrapTo 64 (asSigned n v.toNat) :=
  eq_wrapTo _ _ (by rw [← toInt_eq_asSigned]; rfl)

/-- A value sign-extended to 32 bits, then zero-extended to 64 (R6). -/
theorem zext64_sext32_eq_wrapTo {n : Nat} (v : BitVec n) : zext64 (sext32 v) = wrapTo 32 (asSigned n v.toNat) :=
  zext64_eq_wrapTo _ _ (by rw [← toInt_eq_asSigned]; rfl)

/-! ### The load of format `MEM` -/

/-- The effective address is the sum of the two numbers, not wrapped (R38). -/
theorem State.effectiveAddress_eq (s : State) (rs1 : Reg) (imm : BitVec 12) :
    s.effectiveAddress rs1 imm = (s.reg rs1).toNat + asSigned 12 imm.toNat := by
  rw [State.effectiveAddress, toInt_eq_asSigned]

section
variable {i : Instr} {n : Nat} {ext : BitVec (8 * n) → Word} {rd rs1 : Reg} {imm : BitVec 12} {s : State}

/-- In bounds, a load writes the value read, extended, and nothing else (R200). -/
theorem completes_of_loadReg {v : BitVec (8 * n)} (h : exec i s = loadReg n ext rd rs1 imm s)
    (hv : s.memRead (s.effectiveAddress rs1 imm) n = .ok v) : Completes i s (WritesOnly rd (ext v) 1 s) := by
  rw [Completes, h, loadReg, hv]
  exact writeAndAdvance_writesOnly rd (ext v) 1 s

/-- A load takes the trap of its `MemRead` (R200). -/
theorem trapsWith_of_loadReg {c : Trap} (h : exec i s = loadReg n ext rd rs1 imm s)
    (hc : s.memRead (s.effectiveAddress rs1 imm) n = .error c) : TrapsWith i s c := by
  rw [TrapsWith, h, loadReg, hc]
  rfl

end

/-- An instruction of format `MEM` that is the load of `n` bytes with an extension (R200, R201). -/
theorem loadsOrTraps_of_loadReg {mk : Reg → Reg → BitVec 12 → Instr} {n : Nat} (op : Opcode) {ext : BitVec (8 * n) → Word}
    {f : Nat → Word} (hext : ∀ v, ext v = f v.toNat)
    (hmk : ∀ rd rs1 imm, (mk rd rs1 imm).fields = fieldsRRI op rd rs1 imm ∧ (mk rd rs1 imm).ext = [] ∧
      ∀ s, exec (mk rd rs1 imm) s = loadReg n ext rd rs1 imm s) : LoadsOrTraps mk op.code.toNat n f := by
  intro s rd rs1 imm ea hea
  rw [← State.effectiveAddress_eq] at hea
  subst hea
  obtain ⟨hfields, hwords, hruns⟩ := hmk rd rs1 imm
  refine ⟨encodedAs_of_fieldsRRI op hfields hwords, fun hin => ?_, fun hout => ?_⟩
  · obtain ⟨v, hv⟩ := State.memRead_of_inBounds hin
    rw [← State.memRead_toNat hv, ← hext]
    exact completes_of_loadReg (hruns s) hv
  · exact trapsWith_of_loadReg (hruns s) ((s.memRead_error_iff _ _ _).mpr ⟨hout, rfl⟩)

/-! ### The instructions -/

/-- Settles O41: each instruction is the load with `zext_64`, which on the eight bytes of `LD64` is the identity. -/
theorem zeroExtendingLoads : Obligations.ZeroExtendingLoads :=
  ⟨loadsOrTraps_of_loadReg .ld8u zext64_eq_wrapTo_toNat fun _ _ _ => ⟨rfl, rfl, fun _ => rfl⟩,
    loadsOrTraps_of_loadReg .ld16u zext64_eq_wrapTo_toNat fun _ _ _ => ⟨rfl, rfl, fun _ => rfl⟩,
    loadsOrTraps_of_loadReg .ld32 zext64_eq_wrapTo_toNat fun _ _ _ => ⟨rfl, rfl, fun _ => rfl⟩,
    loadsOrTraps_of_loadReg .ld64 (fun v => eq_wrapTo v v.toNat (ofInt_natCast_toNat v).symm)
      fun _ _ _ => ⟨rfl, rfl, fun _ => rfl⟩,
    loadsOrTraps_of_loadReg .ld8u64 zext64_eq_wrapTo_toNat fun _ _ _ => ⟨rfl, rfl, fun _ => rfl⟩,
    loadsOrTraps_of_loadReg .ld16u64 zext64_eq_wrapTo_toNat fun _ _ _ => ⟨rfl, rfl, fun _ => rfl⟩,
    loadsOrTraps_of_loadReg .ld32u64 zext64_eq_wrapTo_toNat fun _ _ _ => ⟨rfl, rfl, fun _ => rfl⟩⟩

/-- Settles O42: each instruction is the load with `sext_32` and then `zext_64`, or with `sext_64`. -/
theorem signExtendingLoads : Obligations.SignExtendingLoads :=
  ⟨loadsOrTraps_of_loadReg .ld8s zext64_sext32_eq_wrapTo fun _ _ _ => ⟨rfl, rfl, fun _ => rfl⟩,
    loadsOrTraps_of_loadReg .ld16s zext64_sext32_eq_wrapTo fun _ _ _ => ⟨rfl, rfl, fun _ => rfl⟩,
    loadsOrTraps_of_loadReg .ld8s64 sext64_eq_wrapTo fun _ _ _ => ⟨rfl, rfl, fun _ => rfl⟩,
    loadsOrTraps_of_loadReg .ld16s64 sext64_eq_wrapTo fun _ _ _ => ⟨rfl, rfl, fun _ => rfl⟩,
    loadsOrTraps_of_loadReg .ld32s64 sext64_eq_wrapTo fun _ _ _ => ⟨rfl, rfl, fun _ => rfl⟩⟩

end Sys2Proof.Machine
end

section
/-! The stores (R220 to R228): each is `MemWrite` of the low bytes of a register at the effective address. -/

namespace Sys2Proof.Machine

/-! ### The loads and stores that share one operation -/

/-- The instruction runs as the operation `g` on its two registers and its offset. -/
def RunsAs (mk : Reg → Reg → BitVec 12 → Instr) (g : Reg → Reg → BitVec 12 → State → Result) : Prop :=
  ∀ r1 r2 imm s, exec (mk r1 r2 imm) s = g r1 r2 imm s

theorem runsAs_st8 : RunsAs .st8 (storeReg 1) := fun _ _ _ _ => rfl

theorem runsAs_st8_64 : RunsAs .st8_64 (storeReg 1) := fun _ _ _ _ => rfl

theorem runsAs_st16 : RunsAs .st16 (storeReg 2) := fun _ _ _ _ => rfl

theorem runsAs_st16_64 : RunsAs .st16_64 (storeReg 2) := fun _ _ _ _ => rfl

theorem runsAs_st32 : RunsAs .st32 (storeReg 4) := fun _ _ _ _ => rfl

theorem runsAs_st32_64 : RunsAs .st32_64 (storeReg 4) := fun _ _ _ _ => rfl

theorem runsAs_st64 : RunsAs .st64 (storeReg 8) := fun _ _ _ _ => rfl

theorem runsAs_ld8u : RunsAs .ld8u (loadReg 1 zext64) := fun _ _ _ _ => rfl

theorem runsAs_ld8u64 : RunsAs .ld8u64 (loadReg 1 zext64) := fun _ _ _ _ => rfl

theorem runsAs_ld16u : RunsAs .ld16u (loadReg 2 zext64) := fun _ _ _ _ => rfl

theorem runsAs_ld16u64 : RunsAs .ld16u64 (loadReg 2 zext64) := fun _ _ _ _ => rfl

theorem runsAs_ld32 : RunsAs .ld32 (loadReg 4 zext64) := fun _ _ _ _ => rfl

theorem runsAs_ld32u64 : RunsAs .ld32u64 (loadReg 4 zext64) := fun _ _ _ _ => rfl

/-- Two instructions that run as the same operation do the same. -/
theorem RunsAs.exec_eq {mk mk' : Reg → Reg → BitVec 12 → Instr} {g : Reg → Reg → BitVec 12 → State → Result}
    (h : RunsAs mk g) (h' : RunsAs mk' g) (r1 r2 : Reg) (imm : BitVec 12) (s : State) :
    exec (mk r1 r2 imm) s = exec (mk' r1 r2 imm) s :=
  (h r1 r2 imm s).trans (h' r1 r2 imm s).symm

/-! ### The store of format `STORE` -/

theorem encodedAs_of_fieldsStore {i : Instr} (op : Opcode) {rs1 rs2 : Reg} {imm : BitVec 12}
    (hf : i.fields = fieldsStore op rs1 rs2 imm) (hx : i.ext = []) :
    EncodedAs i [baseWord op.code.toNat 0 (regNum rs1) (regNum rs2) imm.toNat] := by
  rw [regNum_eq, regNum_eq]
  exact (encodedAs_baseWord hf hx :)

/-- A byte of the low `8n` bits of a word, as a number: a digit of the word in base 256 (R31). -/
theorem byte_setWidth_toNat (v : Word) {n k : Nat} (hk : k < n) :
    ((v.setWidth (8 * n)).extractLsb' (8 * k) 8).toNat = v.toNat / 256 ^ k % 256 := by
  have hpow : (2 : Nat) ^ (8 * k) = 256 ^ k := by rw [Nat.pow_mul]
  rw [BitVec.extractLsb'_setWidth_of_le (by omega), BitVec.extractLsb'_toNat, Nat.shiftRight_eq_div_pow, hpow]

/-- In bounds, a store leaves the low bytes of its source at the effective address, and changes nothing else (R220, R37). -/
theorem completes_of_storeReg {i : Instr} {n : Nat} {rs1 rs2 : Reg} {imm : BitVec 12} {s : State}
    (h : exec i s = storeReg n rs1 rs2 imm s)
    (hin : 0 ≤ s.effectiveAddress rs1 imm ∧ s.effectiveAddress rs1 imm + n ≤ s.cfg.memSize) :
    Completes i s fun t =>
      (∀ k < n, (Memory.read t.mem ((s.effectiveAddress rs1 imm).toNat + k)).toNat = (s.reg rs2).toNat / 256 ^ k % 256) ∧
        SameMemoryOutside (s.effectiveAddress rs1 imm).toNat n s t ∧ t.cmp = s.cmp ∧ KeepsButMemoryCmp [] 1 s t := by
  have hw := (s.memWrite_ok_iff _ n ((s.reg rs2).setWidth (8 * n)) _).mpr ⟨hin, rfl⟩
  rw [Completes, h, storeReg, hw]
  refine ⟨_, rfl, fun k hk => ?_, fun a ha => ?_, rfl, fun _ _ => rfl, rfl, rfl, ⟨rfl, rfl⟩, s.nextPc_toNat 1⟩
  · rw [State.advance_mem, State.read_add_of_memWrite hw hk, byte_setWidth_toNat _ hk]
  · rw [State.advance_mem, State.read_of_memWrite hw, if_neg ha]

/-- A store out of bounds takes the trap of its `MemWrite` (R220, R37). -/
theorem trapsWith_of_storeReg {i : Instr} {n : Nat} {rs1 rs2 : Reg} {imm : BitVec 12} {s : State}
    (h : exec i s = storeReg n rs1 rs2 imm s)
    (hout : ¬ (0 ≤ s.effectiveAddress rs1 imm ∧ s.effectiveAddress rs1 imm + n ≤ s.cfg.memSize)) :
    TrapsWith i s (.memoryBounds (s.effectiveAddress rs1 imm) n) := by
  rw [TrapsWith, h, storeReg, (s.memWrite_error_iff _ n _ _).mpr ⟨hout, rfl⟩]
  rfl

/-- An instruction of format `STORE` that runs as the store of `n` bytes (R220). -/
theorem RunsAs.storesOrTraps {mk : Reg → Reg → BitVec 12 → Instr} {n : Nat} (h : RunsAs mk (storeReg n)) (op : Opcode)
    (hmk : ∀ rs1 rs2 imm, (mk rs1 rs2 imm).fields = fieldsStore op rs1 rs2 imm ∧ (mk rs1 rs2 imm).ext = []) :
    StoresOrTraps mk op.code.toNat n := by
  rintro s rs1 rs2 imm ea rfl
  obtain ⟨hfields, hwords⟩ := hmk rs1 rs2 imm
  exact ⟨s.effectiveAddress_eq rs1 imm, encodedAs_of_fieldsStore op hfields hwords,
    completes_of_storeReg (h rs1 rs2 imm s), trapsWith_of_storeReg (h rs1 rs2 imm s)⟩

/-! ### The instructions -/

/-- Settles O43: each instruction runs as the store of its number of bytes. -/
theorem storesWriteTheirBytes : Obligations.StoresWriteTheirBytes :=
  ⟨runsAs_st8.storesOrTraps .st8 fun _ _ _ => ⟨rfl, rfl⟩, runsAs_st8_64.storesOrTraps .st8_64 fun _ _ _ => ⟨rfl, rfl⟩,
    runsAs_st16.storesOrTraps .st16 fun _ _ _ => ⟨rfl, rfl⟩, runsAs_st16_64.storesOrTraps .st16_64 fun _ _ _ => ⟨rfl, rfl⟩,
    runsAs_st32.storesOrTraps .st32 fun _ _ _ => ⟨rfl, rfl⟩, runsAs_st32_64.storesOrTraps .st32_64 fun _ _ _ => ⟨rfl, rfl⟩,
    runsAs_st64.storesOrTraps .st64 fun _ _ _ => ⟨rfl, rfl⟩⟩

/-- Settles O44: the two forms of a pair run as the same store, or the same zero-extending load. -/
theorem twinFormsAgree : Obligations.TwinFormsAgree := fun r1 r2 imm s =>
  ⟨runsAs_st8.exec_eq runsAs_st8_64 r1 r2 imm s, runsAs_st16.exec_eq runsAs_st16_64 r1 r2 imm s,
    runsAs_st32.exec_eq runsAs_st32_64 r1 r2 imm s, runsAs_ld8u.exec_eq runsAs_ld8u64 r1 r2 imm s,
    runsAs_ld16u.exec_eq runsAs_ld16u64 r1 r2 imm s, runsAs_ld32.exec_eq runsAs_ld32u64 r1 r2 imm s⟩

end Sys2Proof.Machine
end

section
/-! `CALL` and `RET` (R243 to R245): each form of `CALL` is the one call of a target given as a number, `RET` takes back what a
`CALL` pushed, and only `RET` halts the machine. -/

namespace Sys2Proof.ChecksPass

/-- The fields of a base word of `CALL` (R244). -/
theorem call_fields {f : Fields} {ext : List Word32} (h : ChecksPass .call f ext) : f.rd = 0#4 ∧ f.rs1 = 0#4 :=
  ⟨by simpa [opSpecific] using h.specific, beq_iff_eq.mp h.unused⟩

end Sys2Proof.ChecksPass

namespace Sys2Proof.Machine

/-! ### Rejected words of an opcode -/

/-- An opcode with one instruction only: every other base word of the opcode is rejected (R64). -/
theorem rejected_of_only_instr {op : Opcode} {i : Instr} {w : Word32} (honly : ∀ f ext, build op f ext = some i)
    (hop : opcodeByte w = op.code.toNat) (hne : w ≠ i.fields.toWord) : Rejected w := by
  have hcode : (Fields.ofWord w).op = op.code := BitVec.eq_of_toNat_eq ((Fields.ofWord_op_toNat w).trans hop)
  refine rejected_of_not_checksPass op rfl hcode fun ext h => hne ?_
  obtain ⟨j, hj, hfields, -⟩ := h.builds
  obtain rfl : i = j := Option.some.inj ((honly _ ext).symm.trans hj)
  rw [hfields, Fields.toWord_ofWord]

/-! ### `CALL` -/

/-- An instruction that is a `CALL` of the address a number wraps to calls that number or traps (R244). -/
theorem callsOrTraps_of_target {i : Instr} {v : Word} {target : Int} {len : Nat} (hv : v = BitVec.ofInt 64 target)
    (h : ∀ s, exec i s = callAbsolute v len s) : CallsOrTraps i target len := by
  intro s
  rw [← hv, ← BitVec.ofInt_toInt (x := v)]
  exact callsOrTraps_of_exec h s

/-- A sign-extended immediate is its value in two's complement (R59, R60). -/
theorem sext64_eq_ofInt {n : Nat} (imm : BitVec n) : sext64 imm = BitVec.ofInt 64 (asSigned n imm.toNat) := by
  rw [← toInt_eq_asSigned]
  rfl

/-- The immediate of two extension words, the low one first, as a number (R61). -/
theorem imm64_eq_ofInt (w1 w2 : Word32) : imm64 w1 w2 = BitVec.ofInt 64 (w2.toNat * 2 ^ 32 + w1.toNat) := by
  rw [← ofInt_natCast_toNat (imm64 w1 w2), imm64, toNat_append_mul]
  push_cast
  rfl

/-- Settles O46: the three lengths are the one call, each of its own immediate; `RD` and `RS1` are tested by R64. -/
theorem callPushesAndGoes : Obligations.CallPushesAndGoes := by
  refine ⟨fun imm => ⟨?_, callsOrTraps_of_target (sext64_eq_ofInt imm) fun _ => rfl⟩,
    fun imm => ⟨?_, callsOrTraps_of_target (sext64_eq_ofInt imm) fun _ => rfl⟩,
    fun w1 w2 => ⟨?_, callsOrTraps_of_target (imm64_eq_ofInt w1 w2) fun _ => rfl⟩,
    fun rd rs1 xw imm hrd hrs1 hxw himm hfault => ?_⟩
  · exact (encodedAs_of_fieldsExt (i := .call imm) .call rfl rfl :)
  · exact (encodedAs_of_fieldsExt (i := .callX32 imm) .call rfl rfl :)
  · have hext : (Instr.callX64 (imm64 w1 w2)).ext = [w1, w2] := by simp [Instr.ext, imm64_low, imm64_high]
    exact (encodedAs_of_fieldsExt (i := .callX64 (imm64 w1 w2)) .call rfl hext :)
  · refine rejected_of_not_checksPass .call (ofWord_baseWord (by decide) hrd hrs1 hxw himm) rfl fun ext h => ?_
    have hfields := h.call_fields
    simp only [← BitVec.toNat_inj, BitVec.toNat_ofNat] at hfields
    omega

/-! ### `RET` -/

/-- Settles O25: the `CALL` pushed the next instruction's address on the stack as it was, and `RET` pops that. -/
theorem retUndoesCall : Obligations.RetUndoesCall := by
  intro i s t hcall hroom h
  obtain ⟨target, he⟩ := exec_of_isCall hcall
  rw [he] at h
  rcases callAbsolute_cases h with ⟨hf, -⟩ | ⟨-, rfl⟩
  · exact absurd (s.callStackFull_iff.mp hf) hroom
  · exact ⟨_, exec_ret_of_cons rfl, rfl, s.advance_advancedBy i.len⟩

/-- An instruction that halts a running machine is a `RET` with the stack empty, and it only halts (R245, R345). -/
theorem Effect.halts_only_by_ret {i : Instr} {s t : State} (h : Effect i s t) (hs : s.status = .running)
    (ht : t.status = .halted) : i = .ret ∧ s.rs = [] ∧ t = s.halt := by
  have not_halted {u : State} (hu : u.status = s.status) : u.status ≠ .halted := by simp [hu, hs]
  cases h
  case halts hi hrs => exact ⟨hi, hrs, rfl⟩
  case dividesByZero | overflows | outOfBounds | callStackFull => cases ht
  case macroOutOfBounds => simp at ht
  case fills | copies => exact absurd ht (not_halted (by simp))
  all_goals exact absurd ht (not_halted rfl)

/-- Settles O47: what `RET` does is said by the two forms of the stack; a step halts neither by a trap of the fetch nor by
another instruction. -/
theorem retReturnsOrHalts : Obligations.RetReturnsOrHalts := by
  refine ⟨encodedAs_baseWord rfl rfl, fun s a rest hrs => exec_ret_of_cons hrs, fun s hrs => exec_ret_of_nil hrs,
    fun s t h ht => ?_, fun w hop hne => rejected_of_only_instr (op := .ret) (i := .ret) (fun _ _ => rfl) hop hne⟩
  obtain ⟨hs, ⟨c, -, rfl⟩ | ⟨i, hi, he⟩⟩ := step_cases h
  · cases ht
  · obtain ⟨rfl, hrs, rfl⟩ := (exec_effect he).halts_only_by_ret hs ht
    exact ⟨hi, hrs, rfl⟩

end Sys2Proof.Machine
end

section
/-! `LD`, `DROP`, `FILL` and `LDIR` (R250 to R255): what each `LD` writes is a number, wrapped; the last two complete where
their ranges fit and trap where one does not, and what they write is known byte by byte. -/

namespace Sys2Proof.Machine

/-! ### `LD` and `DROP` -/

/-- The immediate of two extension words, the low one first, as a number (R61). -/
theorem append_eq_ofNat (w1 w2 : Word32) : w2 ++ w1 = BitVec.ofNat 64 (w2.toNat * 2 ^ 32 + w1.toNat) := by
  rw [← toNat_append_mul, BitVec.ofNat_toNat, BitVec.setWidth_eq]

/-- Settles O48: the three lengths write one register each, with the immediate of that length as a number. -/
theorem ldWritesTheImmediate : Obligations.LdWritesTheImmediate := by
  refine ⟨fun s rd imm => ⟨?_, ?_⟩, fun s rd imm => ⟨?_, ?_⟩, fun s rd w1 w2 => ⟨?_, ?_⟩⟩
  · rw [regNum_eq]
    exact (encodedAs_of_fieldsExt (i := .ld rd imm) .ld rfl rfl :)
  · rw [← sext64_eq_ofInt]
    exact writeAndAdvance_writesOnly rd _ 1 s
  · rw [regNum_eq]
    exact (encodedAs_of_fieldsExt (i := .ldX32 rd imm) .ld rfl rfl :)
  · rw [← sext64_eq_ofInt]
    exact writeAndAdvance_writesOnly rd _ 2 s
  · have hext : (Instr.ldX64 rd (imm64 w1 w2)).ext = [w1, w2] := by simp [Instr.ext, imm64_low, imm64_high]
    rw [regNum_eq]
    exact (encodedAs_of_fieldsExt (i := .ldX64 rd (imm64 w1 w2)) .ld rfl hext :)
  · rw [← append_eq_ofNat]
    exact writeAndAdvance_writesOnly rd _ 3 s

/-- Settles O50: `DROP` is the advance, and the one instruction of its opcode. -/
theorem dropOnlyAdvances : Obligations.DropOnlyAdvances :=
  ⟨encodedAs_baseWord rfl rfl, fun s => ⟨s.advance 1, rfl, rfl, s.advance_advancedBy 1⟩,
    fun _ hop hne => rejected_of_only_instr (op := .drop) (i := .drop) (fun _ _ => rfl) hop hne⟩

/-! ### The copy of `LDIR` where its ranges overlap upwards -/

/-- A destination above the source: the copy reads its own writes, so it repeats the bytes from the source up to the
destination (R254). -/
theorem Memory.read_copyUp_of_lt (m : Memory) {src dst n k : Nat} (h : src < dst) (hk : k < n) :
    Memory.read (Memory.copyUp m src dst n) (dst + k) = Memory.read m (src + k % (dst - src)) := by
  induction n generalizing m src dst k with
  | zero => omega
  | succ n ih =>
    rw [Memory.copyUp]
    cases k with
    | zero =>
      rw [Memory.read_copyUp_outside _ _ _ _ _ (by omega), Memory.read_write, if_pos (Nat.add_zero dst), Nat.zero_mod,
        Nat.add_zero]
    | succ k =>
      have hto : dst + (k + 1) = dst + 1 + k := by omega
      have hperiod : dst + 1 - (src + 1) = dst - src := by omega
      have hfrom : src + 1 + k % (dst - src) = src + (k % (dst - src) + 1) := by omega
      have hmod : (k + 1) % (dst - src) = (k % (dst - src) + 1) % (dst - src) := (Nat.mod_add_mod ..).symm
      have hle : k % (dst - src) + 1 ≤ dst - src := Nat.mod_lt _ (by omega)
      rw [hto, ih _ (by omega) (by omega), hperiod, hfrom, hmod, Memory.read_write]
      rcases Nat.eq_or_lt_of_le hle with hwrap | hlt
      · rw [if_pos (by omega), hwrap, Nat.mod_self, Nat.add_zero]
      · rw [if_neg (by omega), Nat.mod_eq_of_lt hlt]

/-! ### `FILL` and `LDIR` in bounds and out of bounds -/

/-- What `FILL` or `LDIR` leaves alone where it completes, whatever it wrote to memory (R255). -/
theorem State.macroEnd_keeps (s : State) (m : Memory) (scratch : List Reg) :
    KeepsButMemoryCmp scratch 1 s ((s.setMem m).macroEnd scratch) :=
  ⟨fun _ hr => (s.setMem m).macroEnd_reg scratch hr, by simp, by simp, by simp [SameProgram], by
    rw [AdvancedBy, State.macroEnd_pc, State.nextPc_toNat, State.setMem_pc]⟩

/-- What `FILL` or `LDIR` leaves alone where it traps, and the status it leaves (R255, R300, R309). -/
theorem State.macroTrap_keeps (s : State) (d n : Nat) (scratch : List Reg) (c : Trap) :
    (s.macroTrap d n scratch c).status = .trapped c s.pc ∧ (s.macroTrap d n scratch c).pc = s.pc ∧
      (s.macroTrap d n scratch c).cmp = s.cmp ∧ (s.macroTrap d n scratch c).rs = s.rs ∧
      SameProgram s (s.macroTrap d n scratch c) ∧ SameRegsBut scratch s (s.macroTrap d n scratch c) ∧
      ∀ a, ¬ (d ≤ a ∧ a < d + n ∧ a < s.cfg.memSize) →
        Memory.read (s.macroTrap d n scratch c).mem a = Memory.read s.mem a :=
  ⟨s.macroTrap_status .., s.macroTrap_pc .., s.macroTrap_cmp .., s.macroTrap_rs ..,
    ⟨s.macroTrap_prog .., s.macroTrap_cfg ..⟩, fun _ hr => s.macroTrap_reg d n scratch c hr,
    s.macroTrap_read_outside d n scratch c⟩

section
variable {s : State} {src d n : Nat}

theorem exec_fill_of_fits (hd : d = (s.reg .hl).toNat) (hn : n = (s.reg .bc).toNat) (hfits : d + n ≤ s.cfg.memSize) :
    exec .fill s = .next ((s.setMem (Memory.writeBytes s.mem d
      (List.replicate n ((s.reg .a).extractLsb' 0 8)))).macroEnd [.hl, .bc]) := by
  subst hd hn
  exact if_neg (Nat.not_lt.mpr hfits)

theorem exec_fill_of_outOfBounds (hd : d = (s.reg .hl).toNat) (hn : n = (s.reg .bc).toNat)
    (hout : s.cfg.memSize < d + n) : exec .fill s = .next (s.macroTrap d n [.hl, .bc] (.memoryBounds d n)) := by
  subst hd hn
  exact if_pos hout

theorem exec_ldir_of_fits (hsrc : src = (s.reg .hl).toNat) (hd : d = (s.reg .de).toNat) (hn : n = (s.reg .bc).toNat)
    (hfrom : src + n ≤ s.cfg.memSize) (hto : d + n ≤ s.cfg.memSize) :
    exec .ldir s = .next ((s.setMem (Memory.copyUp s.mem src d n)).macroEnd [.hl, .de, .bc]) := by
  subst hsrc hd hn
  exact (if_neg (Nat.not_lt.mpr hfrom)).trans (if_neg (Nat.not_lt.mpr hto))

/-- The source range is tested first (R254). -/
theorem exec_ldir_of_outOfBounds (hsrc : src = (s.reg .hl).toNat) (hd : d = (s.reg .de).toNat)
    (hn : n = (s.reg .bc).toNat) (hout : s.cfg.memSize < src + n ∨ s.cfg.memSize < d + n) :
    exec .ldir s = .next (s.macroTrap d n [.hl, .de, .bc]
      (.memoryBounds (if s.cfg.memSize < src + n then src else d) n)) := by
  subst hsrc hd hn
  by_cases hfrom : s.cfg.memSize < (s.reg .hl).toNat + (s.reg .bc).toNat
  · rw [if_pos hfrom]
    exact if_pos hfrom
  · rw [if_neg hfrom]
    exact (if_neg hfrom).trans (if_pos (hout.resolve_left hfrom))

end

/-! ### The statements about `FILL` and `LDIR` -/

/-- Settles O51: each byte of the range is one of the equal bytes written. -/
theorem fillFillsTheRange : Obligations.FillFillsTheRange := by
  refine ⟨encodedAs_baseWord rfl rfl, fun s d n hd hn hfits => ?_,
    fun w hop hne => rejected_of_only_instr (op := .fill) (i := .fill) (fun _ _ => rfl) hop hne⟩
  refine ⟨_, exec_fill_of_fits hd hn hfits, fun a ha => ?_, fun a ha => ?_, s.macroEnd_keeps _ _⟩
  · have hlt : a - d < n := by omega
    rw [State.macroEnd_mem, State.setMem_mem, Memory.read_writeBytes, List.length_replicate, if_pos ha,
      List.getD_replicate _ hlt, BitVec.extractLsb'_toNat]
    rfl
  · rw [State.macroEnd_mem, State.setMem_mem, Memory.read_writeBytes_outside]
    rwa [List.length_replicate]

/-- Settles O52: where the ranges overlap upwards the copy repeats the bytes below the destination; else it never reads a byte
it wrote. -/
theorem ldirCopiesUpwards : Obligations.LdirCopiesUpwards := by
  refine ⟨encodedAs_baseWord rfl rfl, fun s src d n hsrc hd hn hfrom hto => ?_,
    fun w hop hne => rejected_of_only_instr (op := .ldir) (i := .ldir) (fun _ _ => rfl) hop hne⟩
  refine ⟨_, exec_ldir_of_fits hsrc hd hn hfrom hto, fun k hk => ?_, fun a ha => ?_, s.macroEnd_keeps _ _⟩
  · rw [State.macroEnd_mem, State.setMem_mem]
    split
    next hup => exact Memory.read_copyUp_of_lt s.mem hup.1 hk
    next hno => rw [Memory.read_copyUp _ _ _ _ _ (by omega), if_pos (by omega), Nat.add_sub_cancel_left]
  · rw [State.macroEnd_mem, State.setMem_mem, Memory.read_copyUp_outside _ _ _ _ _ ha]

/-- Settles O53: out of bounds both take the trap that leaves all but their scratch registers and in-bounds bytes alone. -/
theorem macroOpsTrapOutOfBounds : Obligations.MacroOpsTrapOutOfBounds :=
  ⟨fun s d n hd hn hout => ⟨_, exec_fill_of_outOfBounds hd hn hout, s.macroTrap_keeps d n _ _⟩,
    fun s _ d n hsrc hd hn hout => ⟨_, exec_ldir_of_outOfBounds hsrc hd hn hout, s.macroTrap_keeps d n _ _⟩⟩

end Sys2Proof.Machine
end

section
/-! Traps (spec/60_exceptions.md, R300 to R310) and the start of a run (spec/70_reset_and_hazards.md, R340 to R342): once, every
way a step takes a trap, of the fetch or of the instruction fetched, with its cause and with what it leaves; the statements are
case analyses over these ways. -/

namespace Sys2Proof.Machine

/-! ### The traps of an instruction -/

/-- The causes an instruction raises, and when: the rows of R301 but for the two of the fetch (R303 to R305, R307). -/
inductive InstrRaises (i : Instr) (s : State) : Trap → Prop where
  | divideByZero (hi : isDivision i = true) : InstrRaises i s .divideByZero
  | integerOverflow (hi : isSignedDivision i = true) : InstrRaises i s .integerOverflow
  | memoryBounds (hi : isLoad i = true ∨ isStore i = true ∨ isMacroOp i = true) (addr : Int) (n : Nat)
      (hb : s.inBounds addr n = false) : InstrRaises i s (.memoryBounds addr n)
  | callStackOverflow (hi : isCall i = true) (hf : s.callStackFull = true) : InstrRaises i s .callStackOverflow

/-- The two states an instruction that raises `c` leaves: that of R300, or, of `FILL` and `LDIR`, that of R255. -/
inductive TrapState (i : Instr) (s : State) (c : Trap) : State → Prop where
  | raised : TrapState i s c (s.raise c)
  | freed (hi : isMacroOp i = true) :
      TrapState i s c (s.macroTrap (s.reg (macroDest i)).toNat (s.reg .bc).toNat (macroScratch i) c)

theorem TrapState.status_eq {i : Instr} {s t : State} {c : Trap} (h : TrapState i s c t) :
    t.status = .trapped c s.pc := by
  cases h with
  | raised => rfl
  | freed => exact s.macroTrap_status _ _ _ _

/-- An instruction leaves the status as it was, halts, or raises one of its causes. -/
theorem Effect.status_cases {i : Instr} {s t : State} (h : Effect i s t) :
    t.status = s.status ∨ t.status = .halted ∨ ∃ c, InstrRaises i s c ∧ TrapState i s c t := by
  cases h
  case halts => exact .inr (.inl rfl)
  case dividesByZero hi => exact .inr (.inr ⟨_, .divideByZero hi, .raised⟩)
  case overflows hi => exact .inr (.inr ⟨_, .integerOverflow hi, .raised⟩)
  case outOfBounds hi addr n hb => exact .inr (.inr ⟨_, .memoryBounds (hi.imp_right .inl) addr n hb, .raised⟩)
  case callStackFull hi hf => exact .inr (.inr ⟨_, .callStackOverflow hi hf, .raised⟩)
  case macroOutOfBounds hi addr hb => exact .inr (.inr ⟨_, .memoryBounds (.inr (.inr hi)) addr _ hb, .freed hi⟩)
  case fills | copies => exact .inl (by simp)
  all_goals exact .inl rfl

/-! ### The traps of a step -/

/-- A step that ends in a trap: the fetch raised it, or the instruction fetched did. -/
theorem step_trap_cases {s t : State} {c : Trap} {p : Word} (h : step s = .next t) (ht : t.status = .trapped c p) :
    (s.fetch = .error c ∧ t = s.raise c) ∨ (∃ i, s.fetch = .ok i ∧ InstrRaises i s c ∧ TrapState i s c t) := by
  obtain ⟨hr, ⟨d, hd, rfl⟩ | ⟨i, hi, he⟩⟩ := step_cases h
  · cases ht
    exact .inl ⟨hd, rfl⟩
  · rcases (exec_effect he).status_cases with hs | hs | ⟨d, hd, hs⟩
    · simp [hs, hr] at ht
    · simp [hs] at ht
    · cases hs.status_eq.symm.trans ht
      exact .inr ⟨i, hi, hd, hs⟩

theorem State.fetchFaults_eq_true_iff (s : State) : s.fetchFaults = true ↔ ¬ FetchesInImage s := by
  rw [← State.fetchFaults_eq_false_iff, Bool.not_eq_false]

theorem State.fetch_of_not_fetchesInImage {s : State} (h : ¬ FetchesInImage s) : s.fetch = .error (.fetchFault s.pc) :=
  if_pos (s.fetchFaults_eq_true_iff.mpr h)

theorem State.fetch_of_rejected {s : State} {r : Reject} (hin : FetchesInImage s)
    (hd : decode s.cfg.extScheme s.codeAtPc = .error r) :
    s.fetch = .error (.illegalInstruction (s.codeAtPc.headD 0#32)) := by
  simp [State.fetch, s.fetchFaults_eq_false_iff.mpr hin, hd]

/-- A fetch outside the image takes its trap (R306). -/
theorem step_of_not_fetchesInImage {s : State} (hs : s.status = .running) (h : ¬ FetchesInImage s) :
    step s = .next (s.raise (.fetchFault s.pc)) :=
  step_of_fetch_error hs (State.fetch_of_not_fetchesInImage h)

/-- `FetchFault` is a trap of the fetch alone: no instruction raises it (R306). -/
theorem not_fetchesInImage_of_fetchFault {s t : State} {a p : Word} (h : step s = .next t)
    (ht : t.status = .trapped (.fetchFault a) p) : ¬ FetchesInImage s := by
  rcases step_trap_cases h ht with ⟨he, -⟩ | ⟨_, -, hc, -⟩
  · rcases State.fetch_error_cases he with ⟨hf, -⟩ | ⟨-, -, hc⟩
    · exact s.fetchFaults_eq_true_iff.mp hf
    · cases hc
  · cases hc

/-! ### The statements about traps -/

/-- Settles O17: the status of every trap state records the program counter, and only `FILL` and `LDIR` leave more than R300
says, where every byte that differs is one of the in-bounds bytes freed. -/
theorem trapsArePrecise : Obligations.TrapsArePrecise := by
  intro s t c p h ht
  rcases step_trap_cases h ht with ⟨-, rfl⟩ | ⟨i, hi, -, hs⟩
  · cases ht
    exact ⟨rfl, rfl, .inl rfl⟩
  · cases hs.status_eq.symm.trans ht
    cases hs with
    | raised => exact ⟨rfl, rfl, .inl rfl⟩
    | freed hm =>
      obtain ⟨-, hpc, hcmp, hrs, hprog, hregs, hmem⟩ :=
        s.macroTrap_keeps (s.reg (macroDest i)).toNat (s.reg .bc).toNat (macroScratch i) c
      exact ⟨rfl, hpc, .inr ⟨i, hi, hm, hregs, hcmp, hrs, hprog, fun a ha => not_not.mp fun hout => ha (hmem a hout)⟩⟩

/-- Settles O18: the two traps of the fetch, the four of an instruction, and their numbers. -/
theorem trapCausesAreThoseOfTheTable : Obligations.TrapCausesAreThoseOfTheTable := by
  refine ⟨fun s t c p h ht => ?_, fun _ _ _ _ => ⟨rfl, rfl, rfl, rfl, rfl, rfl⟩⟩
  rcases step_trap_cases h ht with ⟨he, -⟩ | ⟨i, hi, hc, -⟩
  · rcases State.fetch_error_cases he with ⟨hf, rfl⟩ | ⟨hf, hd, rfl⟩
    · exact ⟨rfl, s.fetchFaults_eq_true_iff.mp hf⟩
    · exact ⟨s.fetchFaults_eq_false_iff.mp hf, ⟨_, State.codeAtPc_eq_cons hf⟩, hd⟩
  · cases hc with
    | divideByZero hd => exact ⟨i, hi, hd⟩
    | integerOverflow hd => exact ⟨i, hi, hd⟩
    | memoryBounds hm addr n hb =>
      refine ⟨⟨i, hi, hm⟩, ?_⟩
      rw [Bool.eq_false_iff, ne_eq, State.inBounds_iff] at hb
      omega
    | callStackOverflow hcall hf => exact ⟨⟨i, hi, hcall⟩, s.callStackFull_iff.mp hf⟩

/-- Settles O10: the fetch tests exactly whether the program counter addresses a word of the image, and nothing else raises
its fault. -/
theorem fetchOutsideImageFaults : Obligations.FetchOutsideImageFaults :=
  fun _ hs => ⟨step_of_not_fetchesInImage hs, fun hin _ _ _ h ht => not_fetchesInImage_of_fetchFault h ht hin⟩

/-- Settles O11: the word recorded is the first of those the decoder was given. -/
theorem rejectedWordTraps : Obligations.RejectedWordTraps := by
  intro s w rest r hs hin hw hd
  have hcode : s.codeAtPc = w :: rest := hw
  have hfetch := State.fetch_of_rejected hin (hcode ▸ hd)
  rw [hcode] at hfetch
  exact step_of_fetch_error hs hfetch

/-! ### The start of a run -/

/-- Settles O26: the start state is Running at `ENTRY` with nothing on the return stack, so a bad `ENTRY` is a fetch outside
the image, and `RET` finds the stack empty. -/
theorem resetStartsAtEntryWithEmptyStack : Obligations.ResetStartsAtEntryWithEmptyStack := by
  intro cfg prog m regs cmp
  refine ⟨rfl, rfl, fun _ => rfl, fun hbad => ?_, ⟨_, exec_ret_of_nil rfl, rfl⟩⟩
  have hout : ¬ FetchesInImage (State.start cfg prog m regs cmp) := by
    simp only [FetchesInImage, State.start]
    omega
  exact ⟨_, step_of_not_fetchesInImage rfl hout, rfl⟩

end Sys2Proof.Machine
end
